-- ==== Sys2Proof/Word.lean ====
section
/-! DEFINITION. The word types of the subsystem (00_scope.md R6, R7). -/

namespace Sys2Proof

abbrev Byte := BitVec 8
abbrev Half := BitVec 16
abbrev Word := BitVec 32
abbrev DWord := BitVec 64

/-- One bit per PLIC source number 0..1023 (30_encoding.md R134: 32 words of 32 bits). -/
abbrev Bitmap := BitVec 1024

end Sys2Proof
end

