-- ==== Sys2Proof/Config.lean ====
section
/-! DEFINITION. The parameters of 00_scope.md R5, the check that they are in their ranges, the example
configuration of 95_test_vectors.md section 0, and the free values the spec leaves to the host. -/

namespace Sys2Proof

/-- `HOLE_POLICY(dev)` (00_scope.md R5, 30_encoding.md R150): what an access to an offset that no register owns does. -/
inductive HolePolicy where
  | zero
  | fail
deriving DecidableEq, Repr

/-- The privilege modes whose contexts 60_exceptions.md R376 names (assumption log 23). -/
inductive Mode where
  | machine
  | supervisor
deriving DecidableEq, Repr

/-- The implementation parameters of 00_scope.md R5, in its order. -/
structure Config where
  numHarts : Nat
  plicNumSources : Nat
  plicNumContexts : Nat
  /-- `CTX_OF`, an injective partial map, as a list of ((hart, mode), context). -/
  ctxOf : List ((Nat × Mode) × Nat)
  plicPrioBits : Nat
  plicBase : DWord
  plicSize : Nat
  clintBase : DWord
  clintSize : Nat
  uartBase : DWord
  uartSize : Nat
  sdhcBase : DWord
  sdhcSize : Nat
  uartIrq : Nat
  sdhcIrq : Nat
  holePlic : HolePolicy
  holeClint : HolePolicy
  holeUart : HolePolicy
  holeSdhc : HolePolicy
  clintRealtime : Bool
  clintTickInsns : Nat
  clintTickDelta : DWord
  clintMtimecmpInit : DWord
  clintMtimeWritable : Bool
  sdhcMounted : Bool
  sdhcCapacity : DWord
  sdhcCaps : DWord
  sdhcMaxcur : DWord
  sdhcVersion : Half
  uartRegShift : Nat
  uartThreIrq : Bool
  uartMsrValue : Byte
deriving DecidableEq, Repr

/-- `BLOCK_SIZE`, the SDHC transfer buffer size (00_scope.md R5). -/
def Config.blockSize : Nat := 512

/-- Two address ranges share no byte (40_bus.md R161). -/
def rangesDisjoint (b s b' s' : Nat) : Bool := decide (b + s ≤ b' ∨ b' + s' ≤ b)

/-- A range `add_device` accepts on its own (40_bus.md R161): not empty, not past `2^64`. -/
def rangeOk (b s : Nat) : Bool := decide (s ≠ 0 ∧ b + s ≤ 2 ^ 64)

/-- Each of the four ranges of the launch is acceptable on its own (40_bus.md R161). -/
def Config.rangesFit (c : Config) : Bool :=
  rangeOk c.plicBase.toNat c.plicSize && rangeOk c.clintBase.toNat c.clintSize &&
  rangeOk c.uartBase.toNat c.uartSize && rangeOk c.sdhcBase.toNat c.sdhcSize

/-- The four ranges of the launch are pairwise disjoint (40_bus.md R161). -/
def Config.rangesApart (c : Config) : Bool :=
  rangesDisjoint c.plicBase.toNat c.plicSize c.clintBase.toNat c.clintSize &&
  rangesDisjoint c.plicBase.toNat c.plicSize c.uartBase.toNat c.uartSize &&
  rangesDisjoint c.plicBase.toNat c.plicSize c.sdhcBase.toNat c.sdhcSize &&
  rangesDisjoint c.clintBase.toNat c.clintSize c.uartBase.toNat c.uartSize &&
  rangesDisjoint c.clintBase.toNat c.clintSize c.sdhcBase.toNat c.sdhcSize &&
  rangesDisjoint c.uartBase.toNat c.uartSize c.sdhcBase.toNat c.sdhcSize

/-- `CTX_OF` is an injective partial map into the contexts (00_scope.md R5). -/
def Config.ctxValid (c : Config) : Bool :=
  decide ((c.ctxOf.map Prod.fst).Nodup) && decide ((c.ctxOf.map Prod.snd).Nodup) &&
  c.ctxOf.all fun e => decide (e.1.1 < c.numHarts ∧ e.2 < c.plicNumContexts)

/-- The parameters that are no device ranges lie in the ranges of 00_scope.md R5. -/
def Config.paramsValid (c : Config) : Bool :=
  decide (1 ≤ c.numHarts ∧ c.numHarts ≤ 4095) &&
  decide (1 ≤ c.plicNumSources ∧ c.plicNumSources ≤ 1023) &&
  decide (1 ≤ c.plicNumContexts ∧ c.plicNumContexts ≤ 15872) &&
  decide (1 ≤ c.plicPrioBits ∧ c.plicPrioBits ≤ 32) &&
  decide (1 ≤ c.uartIrq ∧ c.uartIrq ≤ c.plicNumSources) &&
  decide (1 ≤ c.sdhcIrq ∧ c.sdhcIrq ≤ c.plicNumSources) &&
  decide (c.uartIrq ≠ c.sdhcIrq) && decide (1 ≤ c.clintTickInsns) &&
  !(c.sdhcCaps.getLsbD 22) && !(c.sdhcCaps.getLsbD 19) &&
  c.ctxValid

/-- A configuration from which a machine is built. Any other is a construction error (60_exceptions.md R375), so no machine
has it. -/
def Config.valid (c : Config) : Bool := c.paramsValid && c.rangesFit && c.rangesApart

/-- The example configuration of 95_test_vectors.md section 0. Its values are example choices of the spec and
not facts of the hardware (assumption log 1: DESIGN CHOICE, unsafe for a claim that rests on one of them). -/
def Config.sample : Config where
  numHarts := 2
  plicNumSources := 31
  plicNumContexts := 2
  ctxOf := [((0, .machine), 0), ((1, .machine), 1)]
  plicPrioBits := 3
  plicBase := 0x0C000000#64
  plicSize := 0x4000000
  clintBase := 0x02000000#64
  clintSize := 0x10000
  uartBase := 0x10000000#64
  uartSize := 8
  sdhcBase := 0x10010000#64
  sdhcSize := 0x100
  uartIrq := 10
  sdhcIrq := 11
  holePlic := .zero
  holeClint := .zero
  holeUart := .zero
  holeSdhc := .zero
  clintRealtime := false
  clintTickInsns := 1000000
  clintTickDelta := 1#64
  clintMtimecmpInit := 0xFFFFFFFFFFFFFFFF#64
  clintMtimeWritable := false
  sdhcMounted := true
  sdhcCapacity := 0x100000#64
  sdhcCaps := 0x0000000001A00000#64
  sdhcMaxcur := 0#64
  sdhcVersion := 0x0002#16
  uartRegShift := 0
  uartThreIrq := false
  uartMsrValue := 0xB0#8

/-- What an opaque Device (Rom, Mem, Plugin; 40_bus.md R167) answers to a load. -/
inductive OtherLoadResult where
  | ok (v : DWord)
  | fail
  | refuse
deriving DecidableEq, Repr, Inhabited

/-- What an opaque Device answers to a store. -/
inductive OtherStoreResult where
  | ok
  | fail
  | refuse
deriving DecidableEq, Repr, Inhabited

/-- Free value (assumption log 7): the `k`-th value the host's wall clock offers in real-time mode (42_clint.md R241). -/
opaque Config.hostClock : Nat → DWord

/-- Free value (assumption log 8): the answer of opaque device `id` to a load of `n` bytes at `off`, at draw `k`. -/
opaque Config.otherLoad : (id off n k : Nat) → OtherLoadResult

/-- Free value (assumption log 8): the answer of opaque device `id` to a store of `n` bytes `v` at `off`, at draw `k`. -/
opaque Config.otherStore : (id off n : Nat) → DWord → (k : Nat) → OtherStoreResult

end Sys2Proof
end

