-- ==== Sys2Proof/Syntax.lean ====
section
/-! DEFINITION. The transactions of the subsystem: one constructor of `Instr` for each row of spec/opcode_table.json, in
the table's order, and the names of the registers its device maps select (30_encoding.md R130 to R146). -/

namespace Sys2Proof

/-- A Device the Bus can hold (40_bus.md R160, R166, R167). `bus` is a nested Bus, named by its number in State, and
`other` an opaque Rom, Mem or Plugin; both carry the size they are built with. -/
inductive Device where
  | plic
  | clint
  | uart
  | sdhc
  | bus (id size : Nat)
  | other (id size : Nat)
deriving DecidableEq, Repr

/-- The direction of an MMIO transaction (30_encoding.md R130). -/
inductive Dir where
  | load
  | store
deriving DecidableEq, Repr

/-- The SDHC registers of 30_encoding.md R145, in its order. -/
inductive SdhcReg where
  | sysaddr
  | blksize
  | blkcnt
  | arg
  | xfermode
  | cmd
  | resp
  | bufdata
  | prsnt
  | hostctl
  | pwrctl
  | clkctl
  | toctl
  | swrst
  | nists
  | eists
  | nisten
  | eisten
  | nisigen
  | eisigen
  | caps
  | maxcur
  | version
deriving DecidableEq, Repr

/-- The UART registers of 30_encoding.md R140. -/
inductive UartReg where
  | rbr
  | thr
  | dll
  | ier
  | dlm
  | iir
  | fcr
  | lcr
  | mcr
  | lsr
  | psd
  | msr
  | scr
deriving DecidableEq, Repr

/-- The transactions, one constructor for each row of spec/opcode_table.json. An index is a source `k`, a word `w`, a
context `c` or a hart `h`; an SDHC access starts at byte `i` of its register and has `n` bytes; `v` is the value stored. -/
inductive Instr where
  /-- `BUS.LOAD`: 40_bus.md R163. -/
  | busLoad (addr : DWord) (n : Nat)
  /-- `BUS.STORE`: 40_bus.md R164. -/
  | busStore (addr : DWord) (n : Nat) (v : DWord)
  /-- `BUS.ADD_DEVICE`: 40_bus.md R161; `on` is the Bus the device is added to, 0 the root (R166). -/
  | busAddDevice (on : Nat) (base : DWord) (d : Device)
  /-- `BUS.FIND_DEVICE`: 40_bus.md R165. -/
  | busFindDevice (addr : DWord)
  /-- `PLIC.PRIORITY.LD`: 41_plic.md R181. -/
  | plicPriorityLd (k : Nat)
  /-- `PLIC.PRIORITY.ST`: 41_plic.md R181. -/
  | plicPrioritySt (k : Nat) (v : Word)
  /-- `PLIC.PENDING.LD`: 41_plic.md R182. -/
  | plicPendingLd (w : Nat)
  /-- `PLIC.PENDING.ST`: 41_plic.md R182. -/
  | plicPendingSt (w : Nat) (v : Word)
  /-- `PLIC.ENABLE.LD`: 41_plic.md R183. -/
  | plicEnableLd (c : Nat) (w : Nat)
  /-- `PLIC.ENABLE.ST`: 41_plic.md R183. -/
  | plicEnableSt (c : Nat) (w : Nat) (v : Word)
  /-- `PLIC.THRESHOLD.LD`: 41_plic.md R184. -/
  | plicThresholdLd (c : Nat)
  /-- `PLIC.THRESHOLD.ST`: 41_plic.md R184. -/
  | plicThresholdSt (c : Nat) (v : Word)
  /-- `PLIC.CLAIM.LD`: 41_plic.md R185, R193. -/
  | plicClaimLd (c : Nat)
  /-- `PLIC.COMPLETE.ST`: 41_plic.md R186, R194. -/
  | plicCompleteSt (c : Nat) (v : Word)
  /-- `PLIC.RAISE_IRQ`: 41_plic.md R190. -/
  | plicRaiseIrq (k : Nat) (level : Bool)
  /-- `PLIC.UPDATE`: 41_plic.md R191. -/
  | plicUpdate
  /-- `PLIC.INT_CHECK`: 41_plic.md R192. -/
  | plicIntCheck (c : Nat)
  /-- `CLINT.MSIP.LD`: 42_clint.md R233. -/
  | clintMsipLd (h : Nat)
  /-- `CLINT.MSIP.ST`: 42_clint.md R233. -/
  | clintMsipSt (h : Nat) (v : Word)
  /-- `CLINT.MTIMECMP.LD64`: 42_clint.md R234. -/
  | clintMtimecmpLd64 (h : Nat)
  /-- `CLINT.MTIMECMP.LDLO`: 42_clint.md R235. -/
  | clintMtimecmpLdLo (h : Nat)
  /-- `CLINT.MTIMECMP.LDHI`: 42_clint.md R235. -/
  | clintMtimecmpLdHi (h : Nat)
  /-- `CLINT.MTIMECMP.ST64`: 42_clint.md R234. -/
  | clintMtimecmpSt64 (h : Nat) (v : DWord)
  /-- `CLINT.MTIMECMP.STLO`: 42_clint.md R235. -/
  | clintMtimecmpStLo (h : Nat) (v : Word)
  /-- `CLINT.MTIMECMP.STHI`: 42_clint.md R235. -/
  | clintMtimecmpStHi (h : Nat) (v : Word)
  /-- `CLINT.MTIME.LD64`: 42_clint.md R232. -/
  | clintMtimeLd64
  /-- `CLINT.MTIME.LDLO`: 42_clint.md R232. -/
  | clintMtimeLdLo
  /-- `CLINT.MTIME.LDHI`: 42_clint.md R232. -/
  | clintMtimeLdHi
  /-- `CLINT.MTIME.ST64`: 42_clint.md R236. -/
  | clintMtimeSt64 (v : DWord)
  /-- `CLINT.MTIME.STLO`: 42_clint.md R236. -/
  | clintMtimeStLo (v : Word)
  /-- `CLINT.MTIME.STHI`: 42_clint.md R236. -/
  | clintMtimeStHi (v : Word)
  /-- `CLINT.INCREMENT`: 42_clint.md R230. -/
  | clintIncrement (delta : DWord)
  /-- `SDHC.SYSADDR.LD`: 43_sdhc.md R260. -/
  | sdhcSysaddrLd (i : Nat) (n : Nat)
  /-- `SDHC.SYSADDR.ST`: 43_sdhc.md R260. -/
  | sdhcSysaddrSt (i : Nat) (n : Nat) (v : DWord)
  /-- `SDHC.BLKSIZE.LD`: 43_sdhc.md R260. -/
  | sdhcBlksizeLd (i : Nat) (n : Nat)
  /-- `SDHC.BLKSIZE.ST`: 43_sdhc.md R260. -/
  | sdhcBlksizeSt (i : Nat) (n : Nat) (v : DWord)
  /-- `SDHC.BLKCNT.LD`: 43_sdhc.md R260. -/
  | sdhcBlkcntLd (i : Nat) (n : Nat)
  /-- `SDHC.BLKCNT.ST`: 43_sdhc.md R260. -/
  | sdhcBlkcntSt (i : Nat) (n : Nat) (v : DWord)
  /-- `SDHC.ARG.LD`: 43_sdhc.md R260. -/
  | sdhcArgLd (i : Nat) (n : Nat)
  /-- `SDHC.ARG.ST`: 43_sdhc.md R260. -/
  | sdhcArgSt (i : Nat) (n : Nat) (v : DWord)
  /-- `SDHC.XFERMODE.LD`: 43_sdhc.md R260. -/
  | sdhcXfermodeLd (i : Nat) (n : Nat)
  /-- `SDHC.XFERMODE.ST`: 43_sdhc.md R283. -/
  | sdhcXfermodeSt (i : Nat) (n : Nat) (v : DWord)
  /-- `SDHC.CMD.LD`: 43_sdhc.md R260. -/
  | sdhcCmdLd (i : Nat) (n : Nat)
  /-- `SDHC.CMD.ST`: 43_sdhc.md R272. -/
  | sdhcCmdSt (i : Nat) (n : Nat) (v : DWord)
  /-- `SDHC.RESP.LD`: 43_sdhc.md R261. -/
  | sdhcRespLd (i : Nat) (n : Nat)
  /-- `SDHC.RESP.ST`: 43_sdhc.md R261. -/
  | sdhcRespSt (i : Nat) (n : Nat) (v : DWord)
  /-- `SDHC.BUFDATA.LD`: 43_sdhc.md R276. -/
  | sdhcBufdataLd
  /-- `SDHC.BUFDATA.ST`: 43_sdhc.md R277. -/
  | sdhcBufdataSt (v : Word)
  /-- `SDHC.PRSNT.LD`: 43_sdhc.md R261. -/
  | sdhcPrsntLd (i : Nat) (n : Nat)
  /-- `SDHC.PRSNT.ST`: 43_sdhc.md R261. -/
  | sdhcPrsntSt (i : Nat) (n : Nat) (v : DWord)
  /-- `SDHC.HOSTCTL.LD`: 43_sdhc.md R260. -/
  | sdhcHostctlLd (i : Nat) (n : Nat)
  /-- `SDHC.HOSTCTL.ST`: 43_sdhc.md R260. -/
  | sdhcHostctlSt (i : Nat) (n : Nat) (v : DWord)
  /-- `SDHC.PWRCTL.LD`: 43_sdhc.md R260. -/
  | sdhcPwrctlLd (i : Nat) (n : Nat)
  /-- `SDHC.PWRCTL.ST`: 43_sdhc.md R260. -/
  | sdhcPwrctlSt (i : Nat) (n : Nat) (v : DWord)
  /-- `SDHC.CLKCTL.LD`: 43_sdhc.md R260. -/
  | sdhcClkctlLd (i : Nat) (n : Nat)
  /-- `SDHC.CLKCTL.ST`: 43_sdhc.md R260. -/
  | sdhcClkctlSt (i : Nat) (n : Nat) (v : DWord)
  /-- `SDHC.TOCTL.LD`: 43_sdhc.md R260. -/
  | sdhcToctlLd (i : Nat) (n : Nat)
  /-- `SDHC.TOCTL.ST`: 43_sdhc.md R260. -/
  | sdhcToctlSt (i : Nat) (n : Nat) (v : DWord)
  /-- `SDHC.SWRST.LD`: 43_sdhc.md R282. -/
  | sdhcSwrstLd (i : Nat) (n : Nat)
  /-- `SDHC.SWRST.ST`: 43_sdhc.md R282. -/
  | sdhcSwrstSt (i : Nat) (n : Nat) (v : DWord)
  /-- `SDHC.NISTS.LD`: 43_sdhc.md R284. -/
  | sdhcNistsLd (i : Nat) (n : Nat)
  /-- `SDHC.NISTS.ST`: 43_sdhc.md R284. -/
  | sdhcNistsSt (i : Nat) (n : Nat) (v : DWord)
  /-- `SDHC.EISTS.LD`: 43_sdhc.md R284. -/
  | sdhcEistsLd (i : Nat) (n : Nat)
  /-- `SDHC.EISTS.ST`: 43_sdhc.md R284. -/
  | sdhcEistsSt (i : Nat) (n : Nat) (v : DWord)
  /-- `SDHC.NISTEN.LD`: 43_sdhc.md R260. -/
  | sdhcNistenLd (i : Nat) (n : Nat)
  /-- `SDHC.NISTEN.ST`: 43_sdhc.md R260. -/
  | sdhcNistenSt (i : Nat) (n : Nat) (v : DWord)
  /-- `SDHC.EISTEN.LD`: 43_sdhc.md R260. -/
  | sdhcEistenLd (i : Nat) (n : Nat)
  /-- `SDHC.EISTEN.ST`: 43_sdhc.md R260. -/
  | sdhcEistenSt (i : Nat) (n : Nat) (v : DWord)
  /-- `SDHC.NISIGEN.LD`: 43_sdhc.md R260. -/
  | sdhcNisigenLd (i : Nat) (n : Nat)
  /-- `SDHC.NISIGEN.ST`: 43_sdhc.md R260. -/
  | sdhcNisigenSt (i : Nat) (n : Nat) (v : DWord)
  /-- `SDHC.EISIGEN.LD`: 43_sdhc.md R260. -/
  | sdhcEisigenLd (i : Nat) (n : Nat)
  /-- `SDHC.EISIGEN.ST`: 43_sdhc.md R260. -/
  | sdhcEisigenSt (i : Nat) (n : Nat) (v : DWord)
  /-- `SDHC.CAPS.LD`: 43_sdhc.md R261. -/
  | sdhcCapsLd (i : Nat) (n : Nat)
  /-- `SDHC.CAPS.ST`: 43_sdhc.md R261. -/
  | sdhcCapsSt (i : Nat) (n : Nat) (v : DWord)
  /-- `SDHC.MAXCUR.LD`: 43_sdhc.md R261. -/
  | sdhcMaxcurLd (i : Nat) (n : Nat)
  /-- `SDHC.MAXCUR.ST`: 43_sdhc.md R261. -/
  | sdhcMaxcurSt (i : Nat) (n : Nat) (v : DWord)
  /-- `SDHC.VERSION.LD`: 43_sdhc.md R261. -/
  | sdhcVersionLd (i : Nat) (n : Nat)
  /-- `SDHC.VERSION.ST`: 43_sdhc.md R261. -/
  | sdhcVersionSt (i : Nat) (n : Nat) (v : DWord)
  /-- `UART.RBR.LD`: 44_uart.md R342. -/
  | uartRbrLd
  /-- `UART.THR.ST`: 44_uart.md R343. -/
  | uartThrSt (v : Byte)
  /-- `UART.DLL.LD`: 44_uart.md R344. -/
  | uartDllLd
  /-- `UART.DLL.ST`: 44_uart.md R344. -/
  | uartDllSt (v : Byte)
  /-- `UART.IER.LD`: 44_uart.md R341. -/
  | uartIerLd
  /-- `UART.IER.ST`: 44_uart.md R341. -/
  | uartIerSt (v : Byte)
  /-- `UART.DLM.LD`: 44_uart.md R344. -/
  | uartDlmLd
  /-- `UART.DLM.ST`: 44_uart.md R344. -/
  | uartDlmSt (v : Byte)
  /-- `UART.IIR.LD`: 44_uart.md R345. -/
  | uartIirLd
  /-- `UART.FCR.ST`: 44_uart.md R346. -/
  | uartFcrSt (v : Byte)
  /-- `UART.LCR.LD`: 44_uart.md R347. -/
  | uartLcrLd
  /-- `UART.LCR.ST`: 44_uart.md R347. -/
  | uartLcrSt (v : Byte)
  /-- `UART.MCR.LD`: 44_uart.md R347. -/
  | uartMcrLd
  /-- `UART.MCR.ST`: 44_uart.md R347. -/
  | uartMcrSt (v : Byte)
  /-- `UART.LSR.LD`: 44_uart.md R348. -/
  | uartLsrLd
  /-- `UART.LSR.ST`: 44_uart.md R348. -/
  | uartLsrSt (v : Byte)
  /-- `UART.PSD.LD`: 44_uart.md R348. -/
  | uartPsdLd
  /-- `UART.PSD.ST`: 44_uart.md R348. -/
  | uartPsdSt (v : Byte)
  /-- `UART.MSR.LD`: 44_uart.md R348. -/
  | uartMsrLd
  /-- `UART.MSR.ST`: 44_uart.md R348. -/
  | uartMsrSt (v : Byte)
  /-- `UART.SCR.LD`: 44_uart.md R347. -/
  | uartScrLd
  /-- `UART.SCR.ST`: 44_uart.md R347. -/
  | uartScrSt (v : Byte)
  /-- `UART.POLL`: 44_uart.md R350. -/
  | uartPoll
  /-- `UART.HOST_INPUT`: 44_uart.md R351. -/
  | uartHostInput (bytes : List Byte)
deriving DecidableEq, Repr

end Sys2Proof
end

