-- ==== Sys2Proof/WellFormed.lean ====
section
/-! DEFINITION. The widths of the SDHC registers and the operand ranges of each transaction: what the offset maps of
30_encoding.md R134 to R145 can address. -/

namespace Sys2Proof

/-- Number of bytes an SDHC register owns (30_encoding.md R145). -/
def SdhcReg.len : SdhcReg → Nat
  | .sysaddr => 4
  | .blksize => 2
  | .blkcnt => 2
  | .arg => 4
  | .xfermode => 2
  | .cmd => 2
  | .resp => 16
  | .bufdata => 4
  | .prsnt => 4
  | .hostctl => 1
  | .pwrctl => 1
  | .clkctl => 2
  | .toctl => 1
  | .swrst => 1
  | .nists => 2
  | .eists => 2
  | .nisten => 2
  | .eisten => 2
  | .nisigen => 2
  | .eisigen => 2
  | .caps => 8
  | .maxcur => 8
  | .version => 2

/-- The lengths a Device access may have (20_memory.md R104). -/
def lenOk (n : Nat) : Bool := decide (n = 1 ∨ n = 2 ∨ n = 4 ∨ n = 8)

/-- An SDHC row's access starts inside its register and has an admitted length (opcode_table.json `bytes_owned`, `len`). -/
def SdhcReg.accessOk (r : SdhcReg) (i n : Nat) : Bool := decide (i < r.len) && lenOk n

/-- A device operand of `add_device` on Bus `on` (40_bus.md R161, R166): a nested Bus has a larger number than the Bus that
holds it (assumption log 14), and numbers and sizes fit their 64-bit fields. -/
def Device.operandOk (on : Nat) : Device → Bool
  | .plic => true
  | .clint => true
  | .uart => true
  | .sdhc => true
  | .bus id size => decide (on < id ∧ id < 2 ^ 64 ∧ size < 2 ^ 64)
  | .other id size => decide (id < 2 ^ 64 ∧ size < 2 ^ 64)

/-- The operand ranges of each transaction. -/
def Instr.wf : Instr → Bool
  | .busLoad _ n => decide (1 ≤ n ∧ n ≤ 256)
  | .busStore _ n _ => decide (1 ≤ n ∧ n ≤ 256)
  | .busAddDevice on _ d => decide (on < 256) && d.operandOk on
  | .busFindDevice _ => true
  | .plicPriorityLd k => decide (k < 1024)
  | .plicPrioritySt k _ => decide (k < 1024)
  | .plicPendingLd w => decide (w < 32)
  | .plicPendingSt w _ => decide (w < 32)
  | .plicEnableLd c w => decide (c < 15872 ∧ w < 32)
  | .plicEnableSt c w _ => decide (c < 15872 ∧ w < 32)
  | .plicThresholdLd c => decide (c < 15872)
  | .plicThresholdSt c _ => decide (c < 15872)
  | .plicClaimLd c => decide (c < 15872)
  | .plicCompleteSt c _ => decide (c < 15872)
  | .plicRaiseIrq k _ => decide (k < 2 ^ 64)
  | .plicUpdate => true
  | .plicIntCheck c => decide (c < 2 ^ 64)
  | .clintMsipLd h => decide (h ≤ 4094)
  | .clintMsipSt h _ => decide (h ≤ 4094)
  | .clintMtimecmpLd64 h => decide (h ≤ 4094)
  | .clintMtimecmpLdLo h => decide (h ≤ 4094)
  | .clintMtimecmpLdHi h => decide (h ≤ 4094)
  | .clintMtimecmpSt64 h _ => decide (h ≤ 4094)
  | .clintMtimecmpStLo h _ => decide (h ≤ 4094)
  | .clintMtimecmpStHi h _ => decide (h ≤ 4094)
  | .clintMtimeLd64 => true
  | .clintMtimeLdLo => true
  | .clintMtimeLdHi => true
  | .clintMtimeSt64 _ => true
  | .clintMtimeStLo _ => true
  | .clintMtimeStHi _ => true
  | .clintIncrement _ => true
  | .sdhcSysaddrLd i n => SdhcReg.sysaddr.accessOk i n
  | .sdhcSysaddrSt i n _ => SdhcReg.sysaddr.accessOk i n
  | .sdhcBlksizeLd i n => SdhcReg.blksize.accessOk i n
  | .sdhcBlksizeSt i n _ => SdhcReg.blksize.accessOk i n
  | .sdhcBlkcntLd i n => SdhcReg.blkcnt.accessOk i n
  | .sdhcBlkcntSt i n _ => SdhcReg.blkcnt.accessOk i n
  | .sdhcArgLd i n => SdhcReg.arg.accessOk i n
  | .sdhcArgSt i n _ => SdhcReg.arg.accessOk i n
  | .sdhcXfermodeLd i n => SdhcReg.xfermode.accessOk i n
  | .sdhcXfermodeSt i n _ => SdhcReg.xfermode.accessOk i n
  | .sdhcCmdLd i n => SdhcReg.cmd.accessOk i n
  | .sdhcCmdSt i n _ => SdhcReg.cmd.accessOk i n
  | .sdhcRespLd i n => SdhcReg.resp.accessOk i n
  | .sdhcRespSt i n _ => SdhcReg.resp.accessOk i n
  | .sdhcBufdataLd => true
  | .sdhcBufdataSt _ => true
  | .sdhcPrsntLd i n => SdhcReg.prsnt.accessOk i n
  | .sdhcPrsntSt i n _ => SdhcReg.prsnt.accessOk i n
  | .sdhcHostctlLd i n => SdhcReg.hostctl.accessOk i n
  | .sdhcHostctlSt i n _ => SdhcReg.hostctl.accessOk i n
  | .sdhcPwrctlLd i n => SdhcReg.pwrctl.accessOk i n
  | .sdhcPwrctlSt i n _ => SdhcReg.pwrctl.accessOk i n
  | .sdhcClkctlLd i n => SdhcReg.clkctl.accessOk i n
  | .sdhcClkctlSt i n _ => SdhcReg.clkctl.accessOk i n
  | .sdhcToctlLd i n => SdhcReg.toctl.accessOk i n
  | .sdhcToctlSt i n _ => SdhcReg.toctl.accessOk i n
  | .sdhcSwrstLd i n => SdhcReg.swrst.accessOk i n
  | .sdhcSwrstSt i n _ => SdhcReg.swrst.accessOk i n
  | .sdhcNistsLd i n => SdhcReg.nists.accessOk i n
  | .sdhcNistsSt i n _ => SdhcReg.nists.accessOk i n
  | .sdhcEistsLd i n => SdhcReg.eists.accessOk i n
  | .sdhcEistsSt i n _ => SdhcReg.eists.accessOk i n
  | .sdhcNistenLd i n => SdhcReg.nisten.accessOk i n
  | .sdhcNistenSt i n _ => SdhcReg.nisten.accessOk i n
  | .sdhcEistenLd i n => SdhcReg.eisten.accessOk i n
  | .sdhcEistenSt i n _ => SdhcReg.eisten.accessOk i n
  | .sdhcNisigenLd i n => SdhcReg.nisigen.accessOk i n
  | .sdhcNisigenSt i n _ => SdhcReg.nisigen.accessOk i n
  | .sdhcEisigenLd i n => SdhcReg.eisigen.accessOk i n
  | .sdhcEisigenSt i n _ => SdhcReg.eisigen.accessOk i n
  | .sdhcCapsLd i n => SdhcReg.caps.accessOk i n
  | .sdhcCapsSt i n _ => SdhcReg.caps.accessOk i n
  | .sdhcMaxcurLd i n => SdhcReg.maxcur.accessOk i n
  | .sdhcMaxcurSt i n _ => SdhcReg.maxcur.accessOk i n
  | .sdhcVersionLd i n => SdhcReg.version.accessOk i n
  | .sdhcVersionSt i n _ => SdhcReg.version.accessOk i n
  | .uartRbrLd => true
  | .uartThrSt _ => true
  | .uartDllLd => true
  | .uartDllSt _ => true
  | .uartIerLd => true
  | .uartIerSt _ => true
  | .uartDlmLd => true
  | .uartDlmSt _ => true
  | .uartIirLd => true
  | .uartFcrSt _ => true
  | .uartLcrLd => true
  | .uartLcrSt _ => true
  | .uartMcrLd => true
  | .uartMcrSt _ => true
  | .uartLsrLd => true
  | .uartLsrSt _ => true
  | .uartPsdLd => true
  | .uartPsdSt _ => true
  | .uartMsrLd => true
  | .uartMsrSt _ => true
  | .uartScrLd => true
  | .uartScrSt _ => true
  | .uartPoll => true
  | .uartHostInput _ => true

end Sys2Proof
end

