-- ==== Sys2Proof/Decode.lean ====
section
/-! DEFINITION. The two decoders of the subsystem. First the register maps of 30_encoding.md (stage 2 of R131): what a
device-local offset and length select. Then the transaction record, the model's own serialisation of the formats of
R130 and R152 (assumption log 3), its decoder, and after it the encoder. -/

namespace Sys2Proof

/-! ### Register maps (30_encoding.md R134 to R146) -/

/-- What a 4-byte access at a 4-aligned PLIC offset selects (30_encoding.md R134, R135). -/
inductive PlicSlot where
  | priority (k : Nat)
  | pending (w : Nat)
  | enable (c w : Nat)
  | threshold (c : Nat)
  | claim (c : Nat)
  | hole
deriving DecidableEq, Repr

/-- The one access shape the PLIC admits (20_memory.md R105). -/
def plicShapeOk (off n : Nat) : Bool := decide (n = 4 ∧ off % 4 = 0)

/-- The PLIC offset map (30_encoding.md R134). -/
def plicSlot (off : Nat) : PlicSlot :=
  if off < 0x1000 then .priority (off / 4)
  else if off < 0x1080 then .pending ((off - 0x1000) / 4)
  else if off < 0x2000 then .hole
  else if off < 0x1F2000 then .enable ((off - 0x2000) / 0x80) ((off - 0x2000) % 0x80 / 4)
  else if off < 0x200000 then .hole
  else if off < 0x4000000 then
    if (off - 0x200000) % 0x1000 = 0 then .threshold ((off - 0x200000) / 0x1000)
    else if (off - 0x200000) % 0x1000 = 4 then .claim ((off - 0x200000) / 0x1000)
    else .hole
  else .hole

/-- The offset of each PLIC register (30_encoding.md R134). -/
def PlicSlot.offset : PlicSlot → Nat
  | .priority k => 4 * k
  | .pending w => 0x1000 + 4 * w
  | .enable c w => 0x2000 + 0x80 * c + 4 * w
  | .threshold c => 0x200000 + 0x1000 * c
  | .claim c => 0x200004 + 0x1000 * c
  | .hole => 0

/-- What an access to a CLINT offset with a length selects (30_encoding.md R136, R137; 20_memory.md R105). -/
inductive ClintSlot where
  | msip (h : Nat)
  | cmp64 (h : Nat)
  | cmpLo (h : Nat)
  | cmpHi (h : Nat)
  | time64
  | timeLo
  | timeHi
  | hole
  | refuse
deriving DecidableEq, Repr

/-- The CLINT offset map with `harts` harts (30_encoding.md R136, R137; 20_memory.md R105). An 8-byte access to the `msip` slots
is a hole access where the harts are absent, and refused where one is present (assumption log 25). -/
def clintSlot (harts off n : Nat) : ClintSlot :=
  if n = 4 ∧ off % 4 = 0 then
    if off ≤ 0x3FF8 then .msip (off / 4)
    else if off < 0x4000 then .hole
    else if off < 0xBFF8 then
      if off % 8 = 0 then .cmpLo ((off - 0x4000) / 8) else .cmpHi ((off - 0x4004) / 8)
    else if off = 0xBFF8 then .timeLo
    else if off = 0xBFFC then .timeHi
    else .hole
  else if n = 8 ∧ off % 8 = 0 then
    if off < 0x4000 then (if off / 4 < harts then .refuse else .hole)
    else if off < 0xBFF8 then .cmp64 ((off - 0x4000) / 8)
    else if off = 0xBFF8 then .time64
    else .hole
  else .refuse

/-- The offset of each CLINT register (30_encoding.md R136). -/
def ClintSlot.offset : ClintSlot → Nat
  | .msip h => 4 * h
  | .cmp64 h => 0x4000 + 8 * h
  | .cmpLo h => 0x4000 + 8 * h
  | .cmpHi h => 0x4004 + 8 * h
  | .time64 => 0xBFF8
  | .timeLo => 0xBFF8
  | .timeHi => 0xBFFC
  | .hole => 0
  | .refuse => 0

/-- The UART register number an offset names, or none at a hole (30_encoding.md R140; 20_memory.md R105). -/
def uartIndex (shift off : Nat) : Option Nat :=
  if off % 2 ^ shift = 0 ∧ off / 2 ^ shift ≤ 7 then some (off / 2 ^ shift) else none

/-- The register a load of number `k` reaches (30_encoding.md R140). -/
def uartLoadReg (dlab : Bool) : Nat → Option UartReg
  | 0 => some (if dlab then .dll else .rbr)
  | 1 => some (if dlab then .dlm else .ier)
  | 2 => some .iir
  | 3 => some .lcr
  | 4 => some .mcr
  | 5 => some (if dlab then .psd else .lsr)
  | 6 => some .msr
  | 7 => some .scr
  | _ => none

/-- The register a store to number `k` reaches (30_encoding.md R140); a store to `LSR` or `MSR` is ignored there. -/
def uartStoreReg (dlab : Bool) : Nat → Option UartReg
  | 0 => some (if dlab then .dll else .thr)
  | 1 => some (if dlab then .dlm else .ier)
  | 2 => some .fcr
  | 3 => some .lcr
  | 4 => some .mcr
  | 5 => some (if dlab then .psd else .lsr)
  | 6 => some .msr
  | 7 => some .scr
  | _ => none

/-- The SDHC registers in the order of 30_encoding.md R145. -/
def SdhcReg.all : List SdhcReg :=
  [.sysaddr, .blksize, .blkcnt, .arg, .xfermode, .cmd, .resp, .bufdata, .prsnt, .hostctl, .pwrctl, .clkctl, .toctl, .swrst, .nists, .eists, .nisten, .eisten, .nisigen, .eisigen, .caps, .maxcur, .version]

/-- First byte offset of an SDHC register (30_encoding.md R145). -/
def SdhcReg.lo : SdhcReg → Nat
  | .sysaddr => 0x00
  | .blksize => 0x04
  | .blkcnt => 0x06
  | .arg => 0x08
  | .xfermode => 0x0c
  | .cmd => 0x0e
  | .resp => 0x10
  | .bufdata => 0x20
  | .prsnt => 0x24
  | .hostctl => 0x28
  | .pwrctl => 0x29
  | .clkctl => 0x2c
  | .toctl => 0x2e
  | .swrst => 0x2f
  | .nists => 0x30
  | .eists => 0x32
  | .nisten => 0x34
  | .eisten => 0x36
  | .nisigen => 0x38
  | .eisigen => 0x3a
  | .caps => 0x40
  | .maxcur => 0x48
  | .version => 0xfe

/-- The register that owns an SDHC byte offset, and the byte's index in it; none at a hole (30_encoding.md R145, R146). -/
def sdhcOwner (off : Nat) : Option (SdhcReg × Nat) :=
  (SdhcReg.all.find? fun r => decide (r.lo ≤ off ∧ off < r.lo + r.len)).map fun r => (r, off - r.lo)

/-- The load row of an SDHC register (opcode_table.json). -/
def SdhcReg.ldInstr (i n : Nat) : SdhcReg → Instr
  | .sysaddr => .sdhcSysaddrLd i n
  | .blksize => .sdhcBlksizeLd i n
  | .blkcnt => .sdhcBlkcntLd i n
  | .arg => .sdhcArgLd i n
  | .xfermode => .sdhcXfermodeLd i n
  | .cmd => .sdhcCmdLd i n
  | .resp => .sdhcRespLd i n
  | .bufdata => .sdhcBufdataLd
  | .prsnt => .sdhcPrsntLd i n
  | .hostctl => .sdhcHostctlLd i n
  | .pwrctl => .sdhcPwrctlLd i n
  | .clkctl => .sdhcClkctlLd i n
  | .toctl => .sdhcToctlLd i n
  | .swrst => .sdhcSwrstLd i n
  | .nists => .sdhcNistsLd i n
  | .eists => .sdhcEistsLd i n
  | .nisten => .sdhcNistenLd i n
  | .eisten => .sdhcEistenLd i n
  | .nisigen => .sdhcNisigenLd i n
  | .eisigen => .sdhcEisigenLd i n
  | .caps => .sdhcCapsLd i n
  | .maxcur => .sdhcMaxcurLd i n
  | .version => .sdhcVersionLd i n

/-- The store row of an SDHC register (opcode_table.json). -/
def SdhcReg.stInstr (i n : Nat) (v : DWord) : SdhcReg → Instr
  | .sysaddr => .sdhcSysaddrSt i n v
  | .blksize => .sdhcBlksizeSt i n v
  | .blkcnt => .sdhcBlkcntSt i n v
  | .arg => .sdhcArgSt i n v
  | .xfermode => .sdhcXfermodeSt i n v
  | .cmd => .sdhcCmdSt i n v
  | .resp => .sdhcRespSt i n v
  | .bufdata => .sdhcBufdataSt (v.setWidth 32)
  | .prsnt => .sdhcPrsntSt i n v
  | .hostctl => .sdhcHostctlSt i n v
  | .pwrctl => .sdhcPwrctlSt i n v
  | .clkctl => .sdhcClkctlSt i n v
  | .toctl => .sdhcToctlSt i n v
  | .swrst => .sdhcSwrstSt i n v
  | .nists => .sdhcNistsSt i n v
  | .eists => .sdhcEistsSt i n v
  | .nisten => .sdhcNistenSt i n v
  | .eisten => .sdhcEistenSt i n v
  | .nisigen => .sdhcNisigenSt i n v
  | .eisigen => .sdhcEisigenSt i n v
  | .caps => .sdhcCapsSt i n v
  | .maxcur => .sdhcMaxcurSt i n v
  | .version => .sdhcVersionSt i n v

/-! ### The transaction record (30_encoding.md R130, R152; assumption log 3)

Bytes 0 to 3 are the format, the selector (the device of an MMIO transaction, the operation of a port one), the length
less one and an auxiliary byte; then come three 8-byte little-endian fields `a` (address, offset or first operand), `b` (data or
second operand) and `c`, and then the bytes of a byte-sequence operand. Fields a transaction does not use are zero. -/

/-- The fields of a transaction record. -/
structure Frame where
  fmt : Byte
  sel : Byte
  len : Byte
  aux : Byte
  a : DWord
  b : DWord
  c : DWord
  payload : List Byte
deriving DecidableEq, Repr

/-- Why a record is no instruction. -/
inductive DecodeError where
  /-- fewer bytes than the fixed part of a record -/
  | truncated
  /-- no such format -/
  | badFormat
  /-- no such device or port operation -/
  | badSelector
  /-- a field the transaction does not use is not zero, or an operand does not fit the width it has -/
  | reservedField
  /-- a device-local access that selects no row of the opcode table -/
  | noRow
  /-- a read-modify-write, load-reserved or store-conditional (20_memory.md R113) -/
  | atomic (addr : DWord) (n : Nat)
  /-- an instruction fetch (20_memory.md R114) -/
  | fetch (addr : DWord) (n : Nat)
deriving DecidableEq, Repr

/-- Little-endian assembly (00_scope.md R10). -/
def leValue (b0 b1 b2 b3 b4 b5 b6 b7 : Byte) : DWord :=
  b7 ++ b6 ++ b5 ++ b4 ++ b3 ++ b2 ++ b1 ++ b0

/-- Byte `i` of a little-endian 64-bit value. -/
def leByte (v : DWord) (i : Nat) : Byte := v.extractLsb' (8 * i) 8

/-- The number of bytes of a record before its byte sequence. -/
def recordHeader : Nat := 28

/-- Reading the fields of a record. -/
def parseFrame : List Byte → Option Frame
  | f :: s :: l :: x :: a0 :: a1 :: a2 :: a3 :: a4 :: a5 :: a6 :: a7 ::
      b0 :: b1 :: b2 :: b3 :: b4 :: b5 :: b6 :: b7 :: c0 :: c1 :: c2 :: c3 :: c4 :: c5 :: c6 :: c7 :: rest =>
    some ⟨f, s, l, x, leValue a0 a1 a2 a3 a4 a5 a6 a7, leValue b0 b1 b2 b3 b4 b5 b6 b7,
      leValue c0 c1 c2 c3 c4 c5 c6 c7, rest⟩
  | _ => none

/-- The instruction, unless an unused field is not zero (`clean` is false). -/
def orReserved (clean : Bool) (i : Instr) : Except DecodeError Instr :=
  if clean then .ok i else .error .reservedField

/-- The PLIC load rows (30_encoding.md R134). -/
def plicLoadRow : PlicSlot → Option Instr
  | .priority k => some (.plicPriorityLd k)
  | .pending w => some (.plicPendingLd w)
  | .enable c w => some (.plicEnableLd c w)
  | .threshold c => some (.plicThresholdLd c)
  | .claim c => some (.plicClaimLd c)
  | .hole => none

/-- The PLIC store rows (30_encoding.md R134). -/
def plicStoreRow (v : Word) : PlicSlot → Option Instr
  | .priority k => some (.plicPrioritySt k v)
  | .pending w => some (.plicPendingSt w v)
  | .enable c w => some (.plicEnableSt c w v)
  | .threshold c => some (.plicThresholdSt c v)
  | .claim c => some (.plicCompleteSt c v)
  | .hole => none

/-- The CLINT load rows (30_encoding.md R136). -/
def clintLoadRow : ClintSlot → Option Instr
  | .msip h => some (.clintMsipLd h)
  | .cmp64 h => some (.clintMtimecmpLd64 h)
  | .cmpLo h => some (.clintMtimecmpLdLo h)
  | .cmpHi h => some (.clintMtimecmpLdHi h)
  | .time64 => some .clintMtimeLd64
  | .timeLo => some .clintMtimeLdLo
  | .timeHi => some .clintMtimeLdHi
  | .hole => none
  | .refuse => none

/-- The CLINT store rows (30_encoding.md R136). -/
def clintStoreRow (v : DWord) : ClintSlot → Option Instr
  | .msip h => some (.clintMsipSt h (v.setWidth 32))
  | .cmp64 h => some (.clintMtimecmpSt64 h v)
  | .cmpLo h => some (.clintMtimecmpStLo h (v.setWidth 32))
  | .cmpHi h => some (.clintMtimecmpStHi h (v.setWidth 32))
  | .time64 => some (.clintMtimeSt64 v)
  | .timeLo => some (.clintMtimeStLo (v.setWidth 32))
  | .timeHi => some (.clintMtimeStHi (v.setWidth 32))
  | .hole => none
  | .refuse => none

/-- The UART load rows: a row carries `dlab` 0, 1 or any (30_encoding.md R131, R140). -/
def uartLoadRow : UartReg → Option Instr
  | .rbr => some .uartRbrLd
  | .thr => none
  | .dll => some .uartDllLd
  | .ier => some .uartIerLd
  | .dlm => some .uartDlmLd
  | .iir => some .uartIirLd
  | .fcr => none
  | .lcr => some .uartLcrLd
  | .mcr => some .uartMcrLd
  | .lsr => some .uartLsrLd
  | .psd => some .uartPsdLd
  | .msr => some .uartMsrLd
  | .scr => some .uartScrLd

/-- The UART store rows (30_encoding.md R131, R140). -/
def uartStoreRow (v : Byte) : UartReg → Option Instr
  | .rbr => none
  | .thr => some (.uartThrSt v)
  | .dll => some (.uartDllSt v)
  | .ier => some (.uartIerSt v)
  | .dlm => some (.uartDlmSt v)
  | .iir => none
  | .fcr => some (.uartFcrSt v)
  | .lcr => some (.uartLcrSt v)
  | .mcr => some (.uartMcrSt v)
  | .lsr => some (.uartLsrSt v)
  | .psd => some (.uartPsdSt v)
  | .msr => some (.uartMsrSt v)
  | .scr => some (.uartScrSt v)

/-- The instruction a selected row names. -/
def rowOr (clean : Bool) : Option Instr → Except DecodeError Instr
  | some i => orReserved clean i
  | none => .error .noRow

/-- The registers whose UART rows carry `dlab` 1 (30_encoding.md R140). A record's auxiliary byte is the row's `dlab`,
and 0 where the row has `dlab` any. -/
def uartDlabByte : UartReg → Byte
  | .dll => 1#8
  | .dlm => 1#8
  | .psd => 1#8
  | .rbr => 0#8
  | .thr => 0#8
  | .ier => 0#8
  | .iir => 0#8
  | .fcr => 0#8
  | .lcr => 0#8
  | .mcr => 0#8
  | .lsr => 0#8
  | .msr => 0#8
  | .scr => 0#8

/-- A UART row in a record: register number `a`, `dlab` in the auxiliary byte. -/
def uartFrameReg (f : Frame) (pick : Bool → Nat → Option UartReg) : Option UartReg :=
  match pick (decide (f.aux = 1#8)) f.a.toNat with
  | some r => if uartDlabByte r = f.aux then some r else none
  | none => none

/-- A device operand: kind, size and number (40_bus.md R160, R166, R167). -/
def frameDevice (kind : Nat) (size id : DWord) : Option Device :=
  match kind with
  | 0 => if size = 0#64 ∧ id = 0#64 then some .plic else none
  | 1 => if size = 0#64 ∧ id = 0#64 then some .clint else none
  | 2 => if size = 0#64 ∧ id = 0#64 then some .uart else none
  | 3 => if size = 0#64 ∧ id = 0#64 then some .sdhc else none
  | 4 => some (.bus id.toNat size.toNat)
  | 5 => some (.other id.toNat size.toNat)
  | _ => none

/-- The MMIO loads (30_encoding.md R130, R131). -/
def decodeLoad (f : Frame) : Except DecodeError Instr :=
  let clean := decide (f.b = 0#64 ∧ f.c = 0#64 ∧ f.payload = [])
  let n := f.len.toNat + 1
  match f.sel.toNat with
  | 0 => orReserved (clean && decide (f.aux = 0#8)) (.busLoad f.a n)
  | 1 => rowOr (clean && decide (f.aux = 0#8))
      (if plicShapeOk f.a.toNat n then plicLoadRow (plicSlot f.a.toNat) else none)
  | 2 => rowOr (clean && decide (f.aux = 0#8)) (clintLoadRow (clintSlot 0 f.a.toNat n))
  | 3 =>
    match sdhcOwner f.a.toNat with
    | some (r, i) =>
      rowOr (clean && decide (f.aux = 0#8))
        (if r = .bufdata then (if i = 0 ∧ n = 4 then some .sdhcBufdataLd else none)
         else if lenOk n then some (r.ldInstr i n) else none)
    | none => .error .noRow
  | 4 => rowOr clean (if n = 1 then (uartFrameReg f uartLoadReg).bind uartLoadRow else none)
  | _ => .error .badSelector

/-- The MMIO stores (30_encoding.md R130, R131). The data of a register narrower than 64 bits fits its width. -/
def decodeStore (f : Frame) : Except DecodeError Instr :=
  let clean := decide (f.c = 0#64 ∧ f.payload = [])
  let n := f.len.toNat + 1
  match f.sel.toNat with
  | 0 => orReserved (clean && decide (f.aux = 0#8)) (.busStore f.a n f.b)
  | 1 => rowOr (clean && decide (f.aux = 0#8 ∧ f.b.toNat < 2 ^ 32))
      (if plicShapeOk f.a.toNat n then plicStoreRow (f.b.setWidth 32) (plicSlot f.a.toNat) else none)
  | 2 => rowOr (clean && decide (f.aux = 0#8 ∧ (n = 4 → f.b.toNat < 2 ^ 32)))
      (clintStoreRow f.b (clintSlot 0 f.a.toNat n))
  | 3 =>
    match sdhcOwner f.a.toNat with
    | some (r, i) =>
      if r = .bufdata then
        rowOr (clean && decide (f.aux = 0#8 ∧ f.b.toNat < 2 ^ 32))
          (if i = 0 ∧ n = 4 then some (.sdhcBufdataSt (f.b.setWidth 32)) else none)
      else rowOr (clean && decide (f.aux = 0#8)) (if lenOk n then some (r.stInstr i n f.b) else none)
    | none => .error .noRow
  | 4 => rowOr (clean && decide (f.b.toNat < 2 ^ 8))
      (if n = 1 then (uartFrameReg f uartStoreReg).bind (uartStoreRow (f.b.setWidth 8)) else none)
  | _ => .error .badSelector

/-- The port operations (30_encoding.md R130, R133). -/
def decodePort (f : Frame) : Except DecodeError Instr :=
  match f.sel.toNat with
  | 0 =>
    match frameDevice f.aux.toNat f.b f.c with
    | some d => orReserved (decide (f.payload = [] ∧ d.operandOk f.len.toNat = true)) (.busAddDevice f.len.toNat f.a d)
    | none => .error .reservedField
  | 1 => orReserved (decide (f.len = 0#8 ∧ f.aux = 0#8 ∧ f.b = 0#64 ∧ f.c = 0#64 ∧ f.payload = [])) (.busFindDevice f.a)
  | 2 => orReserved (decide (f.len = 0#8 ∧ f.aux = 0#8 ∧ f.b.toNat < 2 ∧ f.c = 0#64 ∧ f.payload = []))
      (.plicRaiseIrq f.a.toNat (decide (f.b = 1#64)))
  | 3 => orReserved (decide (f.len = 0#8 ∧ f.aux = 0#8 ∧ f.a = 0#64 ∧ f.b = 0#64 ∧ f.c = 0#64 ∧ f.payload = [])) .plicUpdate
  | 4 => orReserved (decide (f.len = 0#8 ∧ f.aux = 0#8 ∧ f.b = 0#64 ∧ f.c = 0#64 ∧ f.payload = [])) (.plicIntCheck f.a.toNat)
  | 5 => orReserved (decide (f.len = 0#8 ∧ f.aux = 0#8 ∧ f.b = 0#64 ∧ f.c = 0#64 ∧ f.payload = [])) (.clintIncrement f.a)
  | 6 => orReserved (decide (f.len = 0#8 ∧ f.aux = 0#8 ∧ f.a = 0#64 ∧ f.b = 0#64 ∧ f.c = 0#64 ∧ f.payload = [])) .uartPoll
  | 7 => orReserved (decide (f.len = 0#8 ∧ f.aux = 0#8 ∧ f.a = 0#64 ∧ f.b = 0#64 ∧ f.c = 0#64)) (.uartHostInput f.payload)
  | _ => .error .badSelector

/-- The instruction a record's fields name. -/
def decodeFrame (f : Frame) : Except DecodeError Instr :=
  match f.fmt.toNat with
  | 0 => decodeLoad f
  | 1 => decodeStore f
  | 2 => decodePort f
  | 3 => .error (.atomic f.a (f.len.toNat + 1))
  | 4 => .error (.fetch f.a (f.len.toNat + 1))
  | _ => .error .badFormat

/-- The decoder: total on any bytes, with a named reason where they are no instruction. -/
def decode (bytes : List Byte) : Except DecodeError Instr :=
  match parseFrame bytes with
  | some f => decodeFrame f
  | none => .error .truncated

/-- The record whose bits are `w`, bit 0 the least significant bit of the first byte; bits at or above `nbits` are zero. -/
def wordRecord (nbits w : Nat) : List Byte :=
  (List.range (max recordHeader (nbits / 8))).map fun i => BitVec.ofNat 8 ((w % 2 ^ nbits) >>> (8 * i))

/-- What the decoder reads from an instruction whose bits are `w` (assumption log 3). -/
def decodeTableWord (nbits w : Nat) : Option Instr :=
  match decode (wordRecord nbits w) with
  | .ok i => some i
  | .error _ => none

/-! ### The encoder, from the offset tables of 30_encoding.md R134 to R145 -/

/-- A device-local load record. -/
def loadFrame (sel : Byte) (off n : Nat) : Frame :=
  ⟨0#8, sel, BitVec.ofNat 8 (n - 1), 0#8, BitVec.ofNat 64 off, 0#64, 0#64, []⟩

/-- A device-local store record. -/
def storeFrame (sel : Byte) (off n : Nat) (v : DWord) : Frame :=
  ⟨1#8, sel, BitVec.ofNat 8 (n - 1), 0#8, BitVec.ofNat 64 off, v, 0#64, []⟩

/-- A UART load record: register number and `dlab`. -/
def uartLoadFrame (k : Nat) (dlab : Byte) : Frame :=
  ⟨0#8, 4#8, 0#8, dlab, BitVec.ofNat 64 k, 0#64, 0#64, []⟩

/-- A UART store record. -/
def uartStoreFrame (k : Nat) (dlab : Byte) (v : Byte) : Frame :=
  ⟨1#8, 4#8, 0#8, dlab, BitVec.ofNat 64 k, v.setWidth 64, 0#64, []⟩

/-- A port record. -/
def portFrame (op : Byte) (a b : DWord) (payload : List Byte) : Frame :=
  ⟨2#8, op, 0#8, 0#8, a, b, 0#64, payload⟩

/-- The record of `add_device`. -/
def deviceFrame (on : Nat) (base : DWord) : Device → Frame
  | .plic => ⟨2#8, 0#8, BitVec.ofNat 8 on, 0#8, base, 0#64, 0#64, []⟩
  | .clint => ⟨2#8, 0#8, BitVec.ofNat 8 on, 1#8, base, 0#64, 0#64, []⟩
  | .uart => ⟨2#8, 0#8, BitVec.ofNat 8 on, 2#8, base, 0#64, 0#64, []⟩
  | .sdhc => ⟨2#8, 0#8, BitVec.ofNat 8 on, 3#8, base, 0#64, 0#64, []⟩
  | .bus id size => ⟨2#8, 0#8, BitVec.ofNat 8 on, 4#8, base, BitVec.ofNat 64 size, BitVec.ofNat 64 id, []⟩
  | .other id size => ⟨2#8, 0#8, BitVec.ofNat 8 on, 5#8, base, BitVec.ofNat 64 size, BitVec.ofNat 64 id, []⟩

/-- The record fields of each transaction. -/
def Instr.frame : Instr → Frame
  | .busLoad addr n => ⟨0#8, 0#8, BitVec.ofNat 8 (n - 1), 0#8, addr, 0#64, 0#64, []⟩
  | .busStore addr n v => ⟨1#8, 0#8, BitVec.ofNat 8 (n - 1), 0#8, addr, v, 0#64, []⟩
  | .busAddDevice on base d => deviceFrame on base d
  | .busFindDevice addr => portFrame 1#8 addr 0#64 []
  | .plicPriorityLd k => loadFrame 1#8 (PlicSlot.priority k).offset 4
  | .plicPrioritySt k v => storeFrame 1#8 (PlicSlot.priority k).offset 4 (v.setWidth 64)
  | .plicPendingLd w => loadFrame 1#8 (PlicSlot.pending w).offset 4
  | .plicPendingSt w v => storeFrame 1#8 (PlicSlot.pending w).offset 4 (v.setWidth 64)
  | .plicEnableLd c w => loadFrame 1#8 (PlicSlot.enable c w).offset 4
  | .plicEnableSt c w v => storeFrame 1#8 (PlicSlot.enable c w).offset 4 (v.setWidth 64)
  | .plicThresholdLd c => loadFrame 1#8 (PlicSlot.threshold c).offset 4
  | .plicThresholdSt c v => storeFrame 1#8 (PlicSlot.threshold c).offset 4 (v.setWidth 64)
  | .plicClaimLd c => loadFrame 1#8 (PlicSlot.claim c).offset 4
  | .plicCompleteSt c v => storeFrame 1#8 (PlicSlot.claim c).offset 4 (v.setWidth 64)
  | .plicRaiseIrq k level => portFrame 2#8 (BitVec.ofNat 64 k) (if level then 1#64 else 0#64) []
  | .plicUpdate => portFrame 3#8 0#64 0#64 []
  | .plicIntCheck c => portFrame 4#8 (BitVec.ofNat 64 c) 0#64 []
  | .clintMsipLd h => loadFrame 2#8 (ClintSlot.msip h).offset 4
  | .clintMsipSt h v => storeFrame 2#8 (ClintSlot.msip h).offset 4 (v.setWidth 64)
  | .clintMtimecmpLd64 h => loadFrame 2#8 (ClintSlot.cmp64 h).offset 8
  | .clintMtimecmpLdLo h => loadFrame 2#8 (ClintSlot.cmpLo h).offset 4
  | .clintMtimecmpLdHi h => loadFrame 2#8 (ClintSlot.cmpHi h).offset 4
  | .clintMtimecmpSt64 h v => storeFrame 2#8 (ClintSlot.cmp64 h).offset 8 v
  | .clintMtimecmpStLo h v => storeFrame 2#8 (ClintSlot.cmpLo h).offset 4 (v.setWidth 64)
  | .clintMtimecmpStHi h v => storeFrame 2#8 (ClintSlot.cmpHi h).offset 4 (v.setWidth 64)
  | .clintMtimeLd64 => loadFrame 2#8 ClintSlot.time64.offset 8
  | .clintMtimeLdLo => loadFrame 2#8 ClintSlot.timeLo.offset 4
  | .clintMtimeLdHi => loadFrame 2#8 ClintSlot.timeHi.offset 4
  | .clintMtimeSt64 v => storeFrame 2#8 ClintSlot.time64.offset 8 v
  | .clintMtimeStLo v => storeFrame 2#8 ClintSlot.timeLo.offset 4 (v.setWidth 64)
  | .clintMtimeStHi v => storeFrame 2#8 ClintSlot.timeHi.offset 4 (v.setWidth 64)
  | .clintIncrement delta => portFrame 5#8 delta 0#64 []
  | .sdhcSysaddrLd i n => loadFrame 3#8 (SdhcReg.sysaddr.lo + i) n
  | .sdhcSysaddrSt i n v => storeFrame 3#8 (SdhcReg.sysaddr.lo + i) n v
  | .sdhcBlksizeLd i n => loadFrame 3#8 (SdhcReg.blksize.lo + i) n
  | .sdhcBlksizeSt i n v => storeFrame 3#8 (SdhcReg.blksize.lo + i) n v
  | .sdhcBlkcntLd i n => loadFrame 3#8 (SdhcReg.blkcnt.lo + i) n
  | .sdhcBlkcntSt i n v => storeFrame 3#8 (SdhcReg.blkcnt.lo + i) n v
  | .sdhcArgLd i n => loadFrame 3#8 (SdhcReg.arg.lo + i) n
  | .sdhcArgSt i n v => storeFrame 3#8 (SdhcReg.arg.lo + i) n v
  | .sdhcXfermodeLd i n => loadFrame 3#8 (SdhcReg.xfermode.lo + i) n
  | .sdhcXfermodeSt i n v => storeFrame 3#8 (SdhcReg.xfermode.lo + i) n v
  | .sdhcCmdLd i n => loadFrame 3#8 (SdhcReg.cmd.lo + i) n
  | .sdhcCmdSt i n v => storeFrame 3#8 (SdhcReg.cmd.lo + i) n v
  | .sdhcRespLd i n => loadFrame 3#8 (SdhcReg.resp.lo + i) n
  | .sdhcRespSt i n v => storeFrame 3#8 (SdhcReg.resp.lo + i) n v
  | .sdhcBufdataLd => loadFrame 3#8 SdhcReg.bufdata.lo 4
  | .sdhcBufdataSt v => storeFrame 3#8 SdhcReg.bufdata.lo 4 (v.setWidth 64)
  | .sdhcPrsntLd i n => loadFrame 3#8 (SdhcReg.prsnt.lo + i) n
  | .sdhcPrsntSt i n v => storeFrame 3#8 (SdhcReg.prsnt.lo + i) n v
  | .sdhcHostctlLd i n => loadFrame 3#8 (SdhcReg.hostctl.lo + i) n
  | .sdhcHostctlSt i n v => storeFrame 3#8 (SdhcReg.hostctl.lo + i) n v
  | .sdhcPwrctlLd i n => loadFrame 3#8 (SdhcReg.pwrctl.lo + i) n
  | .sdhcPwrctlSt i n v => storeFrame 3#8 (SdhcReg.pwrctl.lo + i) n v
  | .sdhcClkctlLd i n => loadFrame 3#8 (SdhcReg.clkctl.lo + i) n
  | .sdhcClkctlSt i n v => storeFrame 3#8 (SdhcReg.clkctl.lo + i) n v
  | .sdhcToctlLd i n => loadFrame 3#8 (SdhcReg.toctl.lo + i) n
  | .sdhcToctlSt i n v => storeFrame 3#8 (SdhcReg.toctl.lo + i) n v
  | .sdhcSwrstLd i n => loadFrame 3#8 (SdhcReg.swrst.lo + i) n
  | .sdhcSwrstSt i n v => storeFrame 3#8 (SdhcReg.swrst.lo + i) n v
  | .sdhcNistsLd i n => loadFrame 3#8 (SdhcReg.nists.lo + i) n
  | .sdhcNistsSt i n v => storeFrame 3#8 (SdhcReg.nists.lo + i) n v
  | .sdhcEistsLd i n => loadFrame 3#8 (SdhcReg.eists.lo + i) n
  | .sdhcEistsSt i n v => storeFrame 3#8 (SdhcReg.eists.lo + i) n v
  | .sdhcNistenLd i n => loadFrame 3#8 (SdhcReg.nisten.lo + i) n
  | .sdhcNistenSt i n v => storeFrame 3#8 (SdhcReg.nisten.lo + i) n v
  | .sdhcEistenLd i n => loadFrame 3#8 (SdhcReg.eisten.lo + i) n
  | .sdhcEistenSt i n v => storeFrame 3#8 (SdhcReg.eisten.lo + i) n v
  | .sdhcNisigenLd i n => loadFrame 3#8 (SdhcReg.nisigen.lo + i) n
  | .sdhcNisigenSt i n v => storeFrame 3#8 (SdhcReg.nisigen.lo + i) n v
  | .sdhcEisigenLd i n => loadFrame 3#8 (SdhcReg.eisigen.lo + i) n
  | .sdhcEisigenSt i n v => storeFrame 3#8 (SdhcReg.eisigen.lo + i) n v
  | .sdhcCapsLd i n => loadFrame 3#8 (SdhcReg.caps.lo + i) n
  | .sdhcCapsSt i n v => storeFrame 3#8 (SdhcReg.caps.lo + i) n v
  | .sdhcMaxcurLd i n => loadFrame 3#8 (SdhcReg.maxcur.lo + i) n
  | .sdhcMaxcurSt i n v => storeFrame 3#8 (SdhcReg.maxcur.lo + i) n v
  | .sdhcVersionLd i n => loadFrame 3#8 (SdhcReg.version.lo + i) n
  | .sdhcVersionSt i n v => storeFrame 3#8 (SdhcReg.version.lo + i) n v
  | .uartRbrLd => uartLoadFrame 0 0#8
  | .uartThrSt v => uartStoreFrame 0 0#8 v
  | .uartDllLd => uartLoadFrame 0 1#8
  | .uartDllSt v => uartStoreFrame 0 1#8 v
  | .uartIerLd => uartLoadFrame 1 0#8
  | .uartIerSt v => uartStoreFrame 1 0#8 v
  | .uartDlmLd => uartLoadFrame 1 1#8
  | .uartDlmSt v => uartStoreFrame 1 1#8 v
  | .uartIirLd => uartLoadFrame 2 0#8
  | .uartFcrSt v => uartStoreFrame 2 0#8 v
  | .uartLcrLd => uartLoadFrame 3 0#8
  | .uartLcrSt v => uartStoreFrame 3 0#8 v
  | .uartMcrLd => uartLoadFrame 4 0#8
  | .uartMcrSt v => uartStoreFrame 4 0#8 v
  | .uartLsrLd => uartLoadFrame 5 0#8
  | .uartLsrSt v => uartStoreFrame 5 0#8 v
  | .uartPsdLd => uartLoadFrame 5 1#8
  | .uartPsdSt v => uartStoreFrame 5 1#8 v
  | .uartMsrLd => uartLoadFrame 6 0#8
  | .uartMsrSt v => uartStoreFrame 6 0#8 v
  | .uartScrLd => uartLoadFrame 7 0#8
  | .uartScrSt v => uartStoreFrame 7 0#8 v
  | .uartPoll => portFrame 6#8 0#64 0#64 []
  | .uartHostInput bytes => portFrame 7#8 0#64 0#64 bytes

/-- The bytes of a record's fields. -/
def renderFrame (f : Frame) : List Byte :=
  f.fmt :: f.sel :: f.len :: f.aux ::
    leByte f.a 0 :: leByte f.a 1 :: leByte f.a 2 :: leByte f.a 3 ::
    leByte f.a 4 :: leByte f.a 5 :: leByte f.a 6 :: leByte f.a 7 ::
    leByte f.b 0 :: leByte f.b 1 :: leByte f.b 2 :: leByte f.b 3 ::
    leByte f.b 4 :: leByte f.b 5 :: leByte f.b 6 :: leByte f.b 7 ::
    leByte f.c 0 :: leByte f.c 1 :: leByte f.c 2 :: leByte f.c 3 ::
    leByte f.c 4 :: leByte f.c 5 :: leByte f.c 6 :: leByte f.c 7 :: f.payload

/-- The encoder. -/
def encode (i : Instr) : List Byte := renderFrame i.frame

end Sys2Proof
end

