-- ==== Sys2Proof/Machine/State.lean ====
section
/-! DEFINITION. The state of the subsystem (10_state.md R20 to R83), the reasons a step can stop, construction
(70_reset_and_hazards.md R400 to R402) and the reset state. Arrays indexed by a source, context or hart are lists of
(index, value) pairs with strictly rising indexes and no entry equal to the array's construction value. -/

namespace Sys2Proof.Machine

/-- Errors that stop the machine: construction errors, "fatal" (60_exceptions.md R375). -/
inductive Fault where
  /-- raised by construction for a mounted SDHC whose image file is missing (60_exceptions.md R375); the spec's own stop, safe -/
  | constructionImageMissing
  /-- raised by construction where the UART's host FIFO fails to open (70_reset_and_hazards.md R402 step 1); the spec's own stop, safe -/
  | constructionFifoMissing
  /-- raised by construction for parameters out of their ranges (60_exceptions.md R375, 00_scope.md R5); the spec's own stop, safe -/
  | constructionParameters
  /-- raised by construction and by `BUS.ADD_DEVICE` for an empty range or one past `2^64` (40_bus.md R161); the spec's own stop, safe -/
  | constructionBadRange
  /-- raised by construction and by `BUS.ADD_DEVICE` for a range that meets a registered one (40_bus.md R161); the spec's own stop, safe -/
  | constructionOverlap
deriving DecidableEq, Repr

/-- The spec's `Refuse(reason)`, operations to which it gives no meaning (00_scope.md R9, 30_encoding.md R150), and the
model's own. Every one stops where hardware may go on, so each is safe. -/
inductive Refusal where
  /-- raised by `exec` for an instruction that has no meaning yet; safe -/
  | notModelled (mnemonic : String)
  /-- raised by Bus transactions of a length outside 1, 2, 4, 8 (20_memory.md R104); safe -/
  | badLength
  /-- raised by a width or alignment a device does not admit (20_memory.md R105); safe -/
  | implDefinedWidth
  /-- raised by SDHC data commands and buffer accesses with a block size other than 512 (43_sdhc.md R273, R276, R277); safe -/
  | unsupportedBlockSize
  /-- raised by an SDHC data command while a transfer is active (43_sdhc.md R273); safe -/
  | commandDuringTransfer
  /-- raised by `PLIC.RAISE_IRQ` with a source number outside 1..N (41_plic.md R190); safe -/
  | badSource
  /-- raised by `PLIC.INT_CHECK` with a context number at or above C (41_plic.md R192); safe -/
  | badContext
  /-- raised by `step` for an atomic access aimed at a device range (20_memory.md R113); safe -/
  | noAtomicMmio
  /-- raised by `step` for an instruction fetch aimed at a device range (20_memory.md R114); safe -/
  | fetchFromDevice
  /-- raised by an access to an opaque device (Rom, Mem, Plugin) that answers with a refusal, or by a fetch from one,
  which "is the core's concern" (40_bus.md R167, 20_memory.md R114); safe -/
  | otherDevice
  /-- raised by `BUS.ADD_DEVICE` after the simulation has started, where "It runs only at construction" (40_bus.md R161); safe -/
  | addDeviceAfterStart
  /-- raised by `step` for a record that is no transaction; safe -/
  | undecodable (e : DecodeError)
deriving DecidableEq, Repr

/-- What a transaction returns to its caller (30_encoding.md R130; assumption log 4). -/
inductive Response where
  /-- no transaction has run yet -/
  | idle
  /-- `Ok` of a store or of a port operation that returns nothing -/
  | ok
  /-- `Ok(v)` of a load of `n` bytes, `v` below `2^(8n)` -/
  | loaded (n : Nat) (v : DWord)
  /-- `Fail(UnmappedAccess)` (60_exceptions.md R370) -/
  | failed
  /-- the result of `find_device` (40_bus.md R165) -/
  | found (owner : Option (Device × Nat))
  /-- the result of `int_check` (41_plic.md R192) -/
  | level (high : Bool)
deriving DecidableEq, Repr

/-- One entry of a Bus's `devmap` (10_state.md R22). -/
structure Mapping where
  base : DWord
  dev : Device
  size : Nat
deriving DecidableEq, Repr

/-- PLIC state (10_state.md R23 to R28). Absent entries read 0. -/
structure Plic where
  priority : List (Nat × Word)
  pending : Bitmap
  enabled : List (Nat × Bitmap)
  threshold : List (Nat × Word)
  claimed : List (Nat × Bitmap)
  irqOut : List (Nat × Bool)
deriving DecidableEq, Repr

/-- CLINT state (10_state.md R30 to R34). Absent entries read 0, those of `mtimecmp` read `CLINT_MTIMECMP_INIT`. -/
structure Clint where
  mtime : DWord
  mtimecmp : List (Nat × DWord)
  msip : List (Nat × Bool)
  msipOut : List (Nat × Bool)
  mtipOut : List (Nat × Bool)
  rtLast : DWord
deriving DecidableEq, Repr

/-- Which transfer the SDHC is in (10_state.md R36). -/
inductive Xfer where
  | none
  | read
  | write
deriving DecidableEq, Repr

/-- SDHC state (10_state.md R35 to R62). `image` and `buf` list the bytes that are not 0. -/
structure Sdhc where
  mounted : Bool
  capacity : DWord
  image : List Host.Cell
  pos : DWord
  buf : List Host.Cell
  cursor : Nat
  xfer : Xfer
  line : Bool
  sysaddr : Word
  blksize : Half
  blkcnt : Half
  arg : Word
  xfermode : Half
  cmd : Half
  resp0 : Word
  resp1 : Word
  resp2 : Word
  resp3 : Word
  prsnt : Word
  hostctl : Byte
  pwrctl : Byte
  clkctl : Half
  toctl : Byte
  swrst : Byte
  nists : Half
  eists : Half
  nisten : Half
  eisten : Half
  nisigen : Half
  eisigen : Half
  caps : DWord
  maxcur : DWord
  version : Half
deriving DecidableEq, Repr

/-- UART state (10_state.md R70 to R82). `fcr` keeps bit 0 only. -/
structure Uart where
  rxq : List Byte
  txlog : List Byte
  ier : Byte
  fcr : Byte
  lcr : Byte
  mcr : Byte
  scr : Byte
  dll : Byte
  dlm : Byte
  psd : Byte
  line : Bool
deriving DecidableEq, Repr

/-- The recoverable-condition counters (60_exceptions.md R374). -/
structure Counters where
  deviceNotReady : Nat
  capacityExceeded : Nat
  malformedCommand : Nat
deriving DecidableEq, Repr

/-- The whole state. `cfg` is the configuration (assumption log 1); `resp`, `started`, `draws` and `requests` are the model's own
(assumption log 4, 12, 7, 2). `bus` holds the `devmap` of each Bus by number, 0 the root (10_state.md R22, 40_bus.md R166). -/
structure State where
  cfg : Config
  bus : List (Nat × List Mapping)
  plic : Plic
  clint : Clint
  sdhc : Sdhc
  uart : Uart
  counters : Counters
  resp : Response
  started : Bool
  draws : Nat
  requests : List (List Byte)
deriving DecidableEq, Repr

/-- Adding an entry to a `devmap` "ordered by base address" (10_state.md R22). -/
def insertMapping (m : Mapping) : List Mapping → List Mapping
  | [] => [m]
  | e :: rest => if m.base.toNat < e.base.toNat then m :: e :: rest else e :: insertMapping m rest

/-- What the launch supplies beside the configuration (70_reset_and_hazards.md R401, R402): the SD image and the UART FIFO with the
host's initial input, each none where the caller fails to open it or finds it unfit, and the unspecified contents of the SDHC buffer. -/
structure Launch where
  cfg : Config
  image : Option (List Host.Cell)
  rxq : Option (List Byte)
  buf : List Host.Cell
deriving DecidableEq, Repr

/-- The `add_device` calls of machine setup: the four devices at their bases (10_state.md R22, 70_reset_and_hazards.md R401). -/
def launchMap (c : Config) : List Mapping :=
  insertMapping ⟨c.plicBase, .plic, c.plicSize⟩ (insertMapping ⟨c.clintBase, .clint, c.clintSize⟩
    (insertMapping ⟨c.uartBase, .uart, c.uartSize⟩ (insertMapping ⟨c.sdhcBase, .sdhc, c.sdhcSize⟩ [])))

/-- The SDHC registers' construction and reset-all values (10_state.md R40 to R62, 70_reset_and_hazards.md R401). -/
def Sdhc.construct (cfg : Config) (image buf : List Host.Cell) : Sdhc where
  mounted := cfg.sdhcMounted
  capacity := cfg.sdhcCapacity
  image := image
  pos := 0#64
  buf := buf
  cursor := 0
  xfer := .none
  line := false
  sysaddr := 0#32
  blksize := 0#16
  blkcnt := 0#16
  arg := 0#32
  xfermode := 0#16
  cmd := 0#16
  resp0 := 0#32
  resp1 := 0#32
  resp2 := 0#32
  resp3 := 0#32
  prsnt := 0x00090000#32
  hostctl := 0#8
  pwrctl := 0#8
  clkctl := 0#16
  toctl := 0#8
  swrst := 0#8
  nists := 0#16
  eists := 0#16
  nisten := 0#16
  eisten := 0#16
  nisigen := 0#16
  eisigen := 0#16
  caps := cfg.sdhcCaps
  maxcur := cfg.sdhcMaxcur
  version := cfg.sdhcVersion

/-- The construction state, the subsystem's reset (70_reset_and_hazards.md R400, R401); `State.construct` builds it from the launches
that R375 allows. `MTIP_out[h]` is `0 >= CLINT_MTIMECMP_INIT` (10_state.md R33). Without an image file (an SDHC that is not mounted)
the image is empty and no access reaches it. -/
def State.initial (l : Launch) : State where
  cfg := l.cfg
  bus := [(0, launchMap l.cfg)]
  plic :=
    { priority := [], pending := 0#1024, enabled := [], threshold := [], claimed := [], irqOut := [] }
  clint :=
    { mtime := 0#64, mtimecmp := [], msip := [], msipOut := []
      mtipOut := if l.cfg.clintMtimecmpInit = 0#64 then (List.range l.cfg.numHarts).map fun h => (h, true) else []
      rtLast := 0#64 }
  sdhc := Sdhc.construct l.cfg (l.image.getD []) l.buf
  uart :=
    { rxq := l.rxq.getD [], txlog := [], ier := 0#8, fcr := 0#8, lcr := 0#8, mcr := 0#8, scr := 0#8
      dll := 0#8, dlm := 0#8, psd := 0#8, line := false }
  counters := { deviceNotReady := 0, capacityExceeded := 0, malformedCommand := 0 }
  resp := .idle
  started := false
  draws := 0
  requests := []

/-- The launch of State.reset: the spec's example configuration, an image of zero bytes, no waiting input, a zero buffer
(assumption log 1, 9, 10, 11; DESIGN CHOICE). -/
def Launch.sample : Launch where
  cfg := Config.sample
  image := some []
  rxq := some []
  buf := []

/-- The machine right after construction. -/
def State.reset : State := State.initial Launch.sample

end Sys2Proof.Machine
end

