-- ==== Sys2Proof/Machine/Ops.lean ====
section
/-! DEFINITION. The shared operations: arrays and byte memories as canonical lists, bounded iteration, byte copies, the
answers a transaction gives its caller, the one CPU-visible failure, hole accesses, and the Bus's resolution. -/

namespace Sys2Proof.Machine

/-! ### Canonical lists of (index, value) pairs -/

/-- Entry `k`; an unlisted entry reads `d`. -/
def cellGet {β : Type} (d : β) (m : List (Nat × β)) (k : Nat) : β :=
  match m with
  | [] => d
  | e :: rest => if e.1 = k then e.2 else cellGet d rest k

/-- Putting an entry before the first larger index. -/
def cellInsert {β : Type} (k : Nat) (v : β) : List (Nat × β) → List (Nat × β)
  | [] => [(k, v)]
  | e :: rest => if k < e.1 then (k, v) :: e :: rest else e :: cellInsert k v rest

/-- Removing every entry of index `k`. -/
def cellErase {β : Type} (k : Nat) (m : List (Nat × β)) : List (Nat × β) :=
  m.filter fun e => e.1 != k

/-- Writing entry `k`. Writing what an unlisted entry reads as removes the entry. -/
def cellSet {β : Type} [DecidableEq β] (d : β) (k : Nat) (v : β) (m : List (Nat × β)) : List (Nat × β) :=
  if v = d then cellErase k m else cellInsert k v (cellErase k m)

/-- The canonical form: indexes strictly rising, no entry equal to what an unlisted one reads as. -/
def cellsWf {β : Type} [DecidableEq β] (d : β) : List (Nat × β) → Bool
  | [] => true
  | e :: rest => decide (e.2 ≠ d) && rest.all (fun x => decide (e.1 < x.1)) && cellsWf d rest

/-- What an unlisted byte of the SD image or of the transfer buffer reads as (assumption log 9 and 10; DESIGN CHOICE). -/
def unlistedByte : Byte := 0#8

/-- One byte of a byte memory. -/
def readByte (m : List Host.Cell) (a : Nat) : Byte := cellGet unlistedByte m a

/-- Storing one byte. -/
def writeByte (a : Nat) (b : Byte) (m : List Host.Cell) : List Host.Cell := cellSet unlistedByte a b m

/-- The canonical form of a byte memory. -/
def Memory.wf (m : List Host.Cell) : Bool := cellsWf unlistedByte m

/-- `f` at 0, then 1, and so on up to `n - 1` (the `for` loops of the pseudocode). -/
def loopTo {α : Type} (f : Nat → α → α) : Nat → α → α
  | 0, a => a
  | n + 1, a => f n (loopTo f n a)

/-- `dst[dstAt .. dstAt+n-1] <- src[srcAt .. srcAt+n-1]`. -/
def copyBytes (src : List Host.Cell) (srcAt dstAt n : Nat) (dst : List Host.Cell) : List Host.Cell :=
  loopTo (fun j m => writeByte (dstAt + j) (readByte src (srcAt + j)) m) n dst

/-! ### Answers -/

/-- What `exec` and `step` answer. -/
abbrev Result := Host.Outcome State Fault Refusal

/-- The transaction is complete and returns `r`; the simulation has started (assumption log 12). -/
def State.respond (r : Response) (s : State) : State := { s with resp := r, started := true }

/-- `return Ok`. -/
def okStore (s : State) : Result := .next (s.respond .ok)

/-- `return Ok(v)` of a load of `n` bytes. -/
def okLoad (n : Nat) (v : DWord) (s : State) : Result := .next (s.respond (.loaded n v))

/-- Taking the subsystem's one exception, `Fail(UnmappedAccess)` (60_exceptions.md R370): the transaction returns the failure, no
device state changes, and the machine goes on. The trap, its saved state, its vector and its return are the core's
(60_exceptions.md R381, R382), so nothing else is saved here and there is no return operation. -/
def failUnmapped (s : State) : Result := .next (s.respond .failed)

/-- A load of `n` bytes at a hole (30_encoding.md R150). -/
def holeLoad (p : HolePolicy) (n : Nat) (s : State) : Result :=
  match p with
  | .zero => okLoad n 0#64 s
  | .fail => failUnmapped s

/-- A store at a hole (30_encoding.md R150). -/
def holeStore (p : HolePolicy) (s : State) : Result :=
  match p with
  | .zero => okStore s
  | .fail => failUnmapped s

/-- An access outside a device's local space `[0, size)` is unmapped (20_memory.md R101, 40_bus.md R162; assumption log 15). -/
def inRange (size off n : Nat) (s : State) (r : Result) : Result :=
  if off + n ≤ size then r else failUnmapped s

/-- `log(kind)` (00_scope.md R9, 60_exceptions.md R374). -/
def State.logNotReady (s : State) : State :=
  { s with counters := { s.counters with deviceNotReady := s.counters.deviceNotReady + 1 } }

/-- `log(CapacityExceeded)`. -/
def State.logCapacity (s : State) : State :=
  { s with counters := { s.counters with capacityExceeded := s.counters.capacityExceeded + 1 } }

/-- `log(MalformedCommand)`. -/
def State.logMalformed (s : State) : State :=
  { s with counters := { s.counters with malformedCommand := s.counters.malformedCommand + 1 } }

/-- One more free value has been drawn (assumption log 7). -/
def State.drawn (s : State) : State := { s with draws := s.draws + 1 }

/-- Replacing one block's state. -/
def State.setPlic (p : Plic) (s : State) : State := { s with plic := p }
def State.setClint (c : Clint) (s : State) : State := { s with clint := c }
def State.setSdhc (d : Sdhc) (s : State) : State := { s with sdhc := d }
def State.setUart (u : Uart) (s : State) : State := { s with uart := u }
def State.setBus (b : List (Nat × List Mapping)) (s : State) : State := { s with bus := b }

/-! ### The Bus -/

/-- `size(d)` (40_bus.md R160). -/
def deviceSize (c : Config) : Device → Nat
  | .plic => c.plicSize
  | .clint => c.clintSize
  | .uart => c.uartSize
  | .sdhc => c.sdhcSize
  | .bus _ size => size
  | .other _ size => size

/-- The `devmap` of Bus `b`. -/
def State.devmap (s : State) (b : Nat) : List Mapping := cellGet [] s.bus b

/-- The entry's range holds all of `[addr, addr+n)` (40_bus.md R162). -/
def Mapping.holds (m : Mapping) (addr n : Nat) : Bool :=
  decide (m.base.toNat ≤ addr ∧ addr + n ≤ m.base.toNat + m.size)

/-- `resolve(addr, n)` on one Bus (40_bus.md R162): the device and `addr - base`, or none for `Fail(UnmappedAccess)`. -/
def resolve (map : List Mapping) (addr n : Nat) : Option (Device × Nat) :=
  if 2 ^ 64 < addr + n then none
  else (map.find? fun m => m.holds addr n).map fun m => (m.dev, addr - m.base.toNat)

/-- Resolution through nested Buses (40_bus.md R166): a nested Bus resolves the local offset as its own address. Numbers of nested
Buses rise (assumption log 14), so the number of listed Buses bounds the depth. -/
def resolveDeep (s : State) : Nat → Nat → Nat → Nat → Option (Device × Nat)
  | 0, _, _, _ => none
  | fuel + 1, b, addr, n =>
    match resolve (s.devmap b) addr n with
    | none => none
    | some (.plic, off) => some (.plic, off)
    | some (.clint, off) => some (.clint, off)
    | some (.uart, off) => some (.uart, off)
    | some (.sdhc, off) => some (.sdhc, off)
    | some (.other id size, off) => some (.other id size, off)
    | some (.bus id _, off) => resolveDeep s fuel id off n

/-- The device and local offset a global access reaches (40_bus.md R162, R166). -/
def State.route (s : State) (addr : DWord) (n : Nat) : Option (Device × Nat) :=
  resolveDeep s (s.bus.length + 1) 0 addr.toNat n

end Sys2Proof.Machine
end

