-- ==== Sys2Proof/Machine/Operands.lean ====
section
/-! DEFINITION. Operand forms: bits, bytes and halves of registers, the words of a PLIC bitmap, and the byte-addressable register
bank of the SDHC (30_encoding.md R132). -/

namespace Sys2Proof.Machine

/-- Setting bit `k` of a register to `b`. -/
def putBit {w : Nat} (v : BitVec w) (k : Nat) (b : Bool) : BitVec w :=
  if b then v ||| BitVec.twoPow w k else v &&& ~~~BitVec.twoPow w k

/-- Byte `i` of a register. -/
def getByte {w : Nat} (v : BitVec w) (i : Nat) : Byte := v.extractLsb' (8 * i) 8

/-- Replacing byte `i` of a register. -/
def putByte {w : Nat} (v : BitVec w) (i : Nat) (b : Byte) : BitVec w :=
  (v &&& ~~~((0xFF#8).setWidth w <<< (8 * i))) ||| (b.setWidth w <<< (8 * i))

/-- `v[31:0]` and `v[63:32]`. -/
def lowHalf (v : DWord) : Word := v.extractLsb' 0 32
def highHalf (v : DWord) : Word := v.extractLsb' 32 32

/-- `v[P-1:0]` of a 32-bit value (41_plic.md R181, R184). -/
def lowBits (p : Nat) (v : Word) : Word := v &&& BitVec.ofNat 32 (2 ^ p - 1)

/-- The bits of the sources 1..N. -/
def sourceMask (n : Nat) : Bitmap := BitVec.ofNat 1024 (2 ^ (n + 1) - 2)

/-- Word `w` of a source bitmap, absent sources reading 0 (41_plic.md R182, R183). -/
def bitmapWord (n : Nat) (m : Bitmap) (w : Nat) : Word := (m &&& sourceMask n).extractLsb' (32 * w) 32

/-- The bits of word `w` of a source bitmap. -/
def wordMask (w : Nat) : Bitmap := (0xFFFFFFFF#32).setWidth 1024 <<< (32 * w)

/-- Writing word `w` of a source bitmap: only the bits of the sources 1..N in that word change (41_plic.md R183). -/
def putBitmapWord (n : Nat) (m : Bitmap) (w : Nat) (v : Word) : Bitmap :=
  (m &&& ~~~(wordMask w &&& sourceMask n)) ||| ((v.setWidth 1024 <<< (32 * w)) &&& sourceMask n)

/-! ### The SDHC register bank -/

/-- `NISTS` as a load sees it: bit 15 is `EISTS != 0`, bits 14:9 read 0 (10_state.md R54, 43_sdhc.md R284). -/
def Sdhc.nistsRead (d : Sdhc) : Half :=
  (d.nists &&& 0x01FF#16) ||| (if d.eists = 0#16 then 0#16 else 0x8000#16)

/-- Byte `i` of a register as a load sees it (43_sdhc.md R260, R261, R284). -/
def Sdhc.regByte (d : Sdhc) (r : SdhcReg) (i : Nat) : Byte :=
  match r with
  | .sysaddr => getByte d.sysaddr i
  | .blksize => getByte d.blksize i
  | .blkcnt => getByte d.blkcnt i
  | .arg => getByte d.arg i
  | .xfermode => getByte d.xfermode i
  | .cmd => getByte d.cmd i
  | .resp => getByte (d.resp3 ++ d.resp2 ++ d.resp1 ++ d.resp0) i
  | .bufdata => 0#8
  | .prsnt => getByte d.prsnt i
  | .hostctl => getByte d.hostctl i
  | .pwrctl => getByte d.pwrctl i
  | .clkctl => getByte d.clkctl i
  | .toctl => getByte d.toctl i
  | .swrst => getByte d.swrst i
  | .nists => getByte d.nistsRead i
  | .eists => getByte d.eists i
  | .nisten => getByte d.nisten i
  | .eisten => getByte d.eisten i
  | .nisigen => getByte d.nisigen i
  | .eisigen => getByte d.eisigen i
  | .caps => getByte d.caps i
  | .maxcur => getByte d.maxcur i
  | .version => getByte d.version i

/-- Writing byte `i` of a register under its write rule: plain (43_sdhc.md R260), read-only (R261), the DMA bit of `XFERMODE`
masked (R283), `SWRST` latched (R264), `NISTS[8:0]` and `EISTS` write-1-to-clear (R284, 10_state.md R54). -/
def Sdhc.putRegByte (d : Sdhc) (r : SdhcReg) (i : Nat) (b : Byte) : Sdhc :=
  match r with
  | .sysaddr => { d with sysaddr := putByte d.sysaddr i b }
  | .blksize => { d with blksize := putByte d.blksize i b }
  | .blkcnt => { d with blkcnt := putByte d.blkcnt i b }
  | .arg => { d with arg := putByte d.arg i b }
  | .xfermode => { d with xfermode := putBit (putByte d.xfermode i b) 0 false }
  | .cmd => { d with cmd := putByte d.cmd i b }
  | .resp => d
  | .bufdata => d
  | .prsnt => d
  | .hostctl => { d with hostctl := putByte d.hostctl i b }
  | .pwrctl => { d with pwrctl := putByte d.pwrctl i b }
  | .clkctl => { d with clkctl := putByte d.clkctl i b }
  | .toctl => { d with toctl := putByte d.toctl i b }
  | .swrst => { d with swrst := putByte d.swrst i b }
  | .nists => { d with nists := d.nists &&& ~~~(putByte 0#16 i b &&& 0x7FFF#16) }
  | .eists => { d with eists := d.eists &&& ~~~putByte 0#16 i b }
  | .nisten => { d with nisten := putByte d.nisten i b }
  | .eisten => { d with eisten := putByte d.eisten i b }
  | .nisigen => { d with nisigen := putByte d.nisigen i b }
  | .eisigen => { d with eisigen := putByte d.eisigen i b }
  | .caps => d
  | .maxcur => d
  | .version => d

/-- The byte at an offset; a hole byte reads 0 (43_sdhc.md R262). -/
def Sdhc.byteAt (d : Sdhc) (off : Nat) : Byte :=
  match sdhcOwner off with
  | some (r, i) => d.regByte r i
  | none => 0#8

/-- Writing the byte at an offset; a hole byte ignores writes (43_sdhc.md R262). -/
def Sdhc.putByteAt (d : Sdhc) (off : Nat) (b : Byte) : Sdhc :=
  match sdhcOwner off with
  | some (r, i) => d.putRegByte r i b
  | none => d

/-- The `n` bytes at `off`, little-endian (30_encoding.md R132). -/
def Sdhc.valueAt (d : Sdhc) (off n : Nat) : DWord :=
  loopTo (fun j v => v ||| ((d.byteAt (off + j)).setWidth 64 <<< (8 * j))) n 0#64

/-- Storing the `n` low bytes of `v` at `off`, each into the register that owns it (30_encoding.md R132). -/
def Sdhc.putValueAt (d : Sdhc) (off n : Nat) (v : DWord) : Sdhc :=
  loopTo (fun j e => e.putByteAt (off + j) (getByte v j)) n d

/-- An access of `n` bytes at `off` covers the byte `b`. -/
def covers (off n b : Nat) : Bool := decide (off ≤ b ∧ b < off + n)

/-- The access touches a byte of `BUFDATA` (20_memory.md R105). -/
def touchesBufdata (off n : Nat) : Bool := decide (off < 0x24 ∧ 0x20 < off + n)

/-- The access covers a hole byte (43_sdhc.md R262). -/
def coversHole (off n : Nat) : Bool := (List.range n).any fun j => (sdhcOwner (off + j)).isNone

end Sys2Proof.Machine
end

