-- ==== Sys2Proof/Machine/Flags.lean ====
section
/-! DEFINITION. The computed flags and lines: PLIC eligibility, `update()` and `raise_irq` (41_plic.md R190, R191), the CLINT
outputs (42_clint.md R237), the SDHC present-state and interrupt-status bits and its interrupt line (10_state.md R48, R54;
43_sdhc.md R285), the UART status and line (44_uart.md R345, R348, R350). -/

namespace Sys2Proof.Machine

/-! ### PLIC -/

/-- `priority[k]`, `threshold[c]`, `enabled[c]`, `claimed[c]`, `irq_out[c]` (10_state.md R23 to R28). -/
def Plic.prio (p : Plic) (k : Nat) : Word := cellGet 0#32 p.priority k
def Plic.thresh (p : Plic) (c : Nat) : Word := cellGet 0#32 p.threshold c
def Plic.enabledOf (p : Plic) (c : Nat) : Bitmap := cellGet 0#1024 p.enabled c
def Plic.claimedOf (p : Plic) (c : Nat) : Bitmap := cellGet 0#1024 p.claimed c
def Plic.lineOf (p : Plic) (c : Nat) : Bool := cellGet false p.irqOut c

/-- Some context has claimed source `k` (41_plic.md R191). -/
def Plic.claimedByAny (cfg : Config) (p : Plic) (k : Nat) : Bool :=
  (List.range cfg.plicNumContexts).any fun c => (p.claimedOf c).getLsbD k

/-- `eligible(c, k)` (41_plic.md R191). -/
def Plic.eligible (cfg : Config) (p : Plic) (c k : Nat) : Bool :=
  p.pending.getLsbD k && (p.enabledOf c).getLsbD k && !p.claimedByAny cfg k && decide (p.thresh c < p.prio k)

/-- `exists k in 1..N: eligible(c, k)` (41_plic.md R191). -/
def Plic.anyEligible (cfg : Config) (p : Plic) (c : Nat) : Bool :=
  (List.range cfg.plicNumSources).any fun j => p.eligible cfg c (j + 1)

/-- `update()` (41_plic.md R191): `irq_out[c]` for every context. -/
def Plic.update (cfg : Config) (p : Plic) : Plic :=
  { p with irqOut := loopTo (fun c m => cellSet false c (p.anyEligible cfg c) m) cfg.plicNumContexts p.irqOut }

/-- `claimed[c][k] <- b`. -/
def Plic.setClaimed (c k : Nat) (b : Bool) (p : Plic) : Plic :=
  { p with claimed := cellSet 0#1024 c (putBit (p.claimedOf c) k b) p.claimed }

/-- `pending[k] <- b`. -/
def Plic.setPending (k : Nat) (b : Bool) (p : Plic) : Plic := { p with pending := putBit p.pending k b }

/-- `raise_irq(k, level)` on a source of the PLIC (41_plic.md R190). -/
def Plic.raise (cfg : Config) (k : Nat) (level : Bool) (p : Plic) : Plic :=
  if level then (p.setPending k true).update cfg
  else (loopTo (fun c q => q.setClaimed c k false) cfg.plicNumContexts (p.setPending k false)).update cfg

/-- The source `claim(c)` picks among the sources 1..n, 0 for none: highest priority, then lowest number (41_plic.md R193). -/
def Plic.best (cfg : Config) (p : Plic) (c : Nat) : Nat → Nat
  | 0 => 0
  | n + 1 =>
    if p.eligible cfg c (n + 1) && (decide (p.best cfg c n = 0) || decide (p.prio (p.best cfg c n) < p.prio (n + 1)))
    then n + 1 else p.best cfg c n

/-- The state after `claim(c)` (41_plic.md R193). -/
def Plic.claim (cfg : Config) (c : Nat) (p : Plic) : Plic :=
  if p.best cfg c cfg.plicNumSources = 0 then p
  else ((p.setClaimed c (p.best cfg c cfg.plicNumSources) true).setPending (p.best cfg c cfg.plicNumSources) false).update cfg

/-- The state after `complete(c, k)` (41_plic.md R194). -/
def Plic.complete (cfg : Config) (c k : Nat) (p : Plic) : Plic :=
  if decide (1 ≤ k ∧ k ≤ cfg.plicNumSources) && (p.claimedOf c).getLsbD k then (p.setClaimed c k false).update cfg else p

/-- A device's or the environment's call of `raise_irq` (41_plic.md R190, R196, R197). -/
def State.raiseIrq (k : Nat) (level : Bool) (s : State) : State := s.setPlic (s.plic.raise s.cfg k level)

/-- The external interrupt the core sees pending for hart `h` in mode `m`: the line of context `CTX_OF(h, m)`, none where the
pair has no context (60_exceptions.md R376). -/
def State.externalPending (s : State) (h : Nat) (m : Mode) : Option Bool :=
  (s.cfg.ctxOf.find? fun e => e.1 == (h, m)).map fun e => s.plic.lineOf e.2

/-! ### CLINT -/

/-- `mtimecmp[h]`, `msip[h]`, `MSIP_out[h]`, `MTIP_out[h]` (10_state.md R31 to R33). -/
def Clint.cmp (cfg : Config) (c : Clint) (h : Nat) : DWord := cellGet cfg.clintMtimecmpInit c.mtimecmp h
def Clint.msipOf (c : Clint) (h : Nat) : Bool := cellGet false c.msip h
def Clint.msipOutOf (c : Clint) (h : Nat) : Bool := cellGet false c.msipOut h
def Clint.mtipOutOf (c : Clint) (h : Nat) : Bool := cellGet false c.mtipOut h

/-- `mtime >= mtimecmp[h]`, unsigned (42_clint.md R237). -/
def Clint.timerDue (cfg : Config) (c : Clint) (h : Nat) : Bool := decide (c.cmp cfg h ≤ c.mtime)

/-- `sync(h)` (42_clint.md R237). -/
def Clint.sync (cfg : Config) (h : Nat) (c : Clint) : Clint :=
  { c with
    msipOut := cellSet false h (c.msipOf h) c.msipOut
    mtipOut := cellSet false h (c.timerDue cfg h) c.mtipOut }

/-- `sync_all()` (42_clint.md R237). -/
def Clint.syncAll (cfg : Config) (c : Clint) : Clint := loopTo (fun h e => e.sync cfg h) cfg.numHarts c

/-! ### SDHC -/

/-- Bits of `PRSNT` (10_state.md R48). -/
def prsntCMDINH : Nat := 0
def prsntDATINH : Nat := 1
def prsntWTA : Nat := 8
def prsntRTA : Nat := 9
def prsntBWE : Nat := 10
def prsntBRE : Nat := 11

/-- Bits of `NISTS` and `NISTEN` (10_state.md R54). -/
def nistsCC : Nat := 0
def nistsTC : Nat := 1
def nistsBGE : Nat := 2
def nistsDMAINT : Nat := 3
def nistsBWR : Nat := 4
def nistsBRR : Nat := 5

/-- Bits of `XFERMODE` (10_state.md R44). -/
def xfermodeBCE : Nat := 1
def xfermodeMSBS : Nat := 5

/-- Setting a `PRSNT` or a `NISTS` bit. -/
def Sdhc.putPrsnt (k : Nat) (b : Bool) (d : Sdhc) : Sdhc := { d with prsnt := putBit d.prsnt k b }
def Sdhc.putNists (k : Nat) (b : Bool) (d : Sdhc) : Sdhc := { d with nists := putBit d.nists k b }

/-- `BS`, the configured block size `BLKSIZE[11:0]` (10_state.md R41). -/
def Sdhc.blockSize (d : Sdhc) : Nat := (d.blksize.extractLsb' 0 12).toNat

/-- `CMD[13:8]`, the command index (43_sdhc.md R272). -/
def Sdhc.cmdIndex (d : Sdhc) : Nat := (d.cmd.extractLsb' 8 6).toNat

/-- The SDHC interrupt line's level (43_sdhc.md R285). -/
def Sdhc.level (d : Sdhc) : Bool :=
  decide ((d.nists &&& d.nisigen &&& 0x7FFF#16) ≠ 0#16) || decide ((d.eists &&& d.eisigen) ≠ 0#16)

/-- `recompute_line()` (43_sdhc.md R285). -/
def State.recomputeLine (s : State) : State :=
  let l := s.sdhc.level
  let s' := if l || decide (l ≠ s.sdhc.line) then s.raiseIrq s.cfg.sdhcIrq l else s
  s'.setSdhc { s'.sdhc with line := l }

/-! ### UART -/

/-- `DLAB` (10_state.md R75). -/
def Uart.dlab (u : Uart) : Bool := u.lcr.getLsbD 7

/-- `rx_avail` (10_state.md R70). -/
def Uart.rxAvail (u : Uart) : Bool := !u.rxq.isEmpty

/-- The UART interrupt line's level (44_uart.md R350). -/
def Uart.level (cfg : Config) (u : Uart) : Bool :=
  (u.ier.getLsbD 0 && u.rxAvail) || (cfg.uartThreIrq && u.ier.getLsbD 1)

/-- `LSR` (44_uart.md R348). -/
def Uart.lsr (u : Uart) : Byte := (if u.rxAvail then 0x01#8 else 0#8) ||| 0x20#8 ||| 0x40#8

/-- `IIR` (44_uart.md R345). -/
def Uart.iir (cfg : Config) (u : Uart) : Byte :=
  (if u.fcr.getLsbD 0 then 0xC0#8 else 0x00#8) |||
  (if u.ier.getLsbD 0 && u.rxAvail then 0x04#8
   else if cfg.uartThreIrq && u.ier.getLsbD 1 then 0x02#8 else 0x01#8)

/-- `check_int()` (44_uart.md R350). -/
def State.checkInt (s : State) : State :=
  let l := s.uart.level s.cfg
  let s' := if l || decide (l ≠ s.uart.line) then s.raiseIrq s.cfg.uartIrq l else s
  s'.setUart { s'.uart with line := l }

end Sys2Proof.Machine
end

