-- ==== Sys2Proof/Machine/Clint.lean ====
section
/-! DEFINITION. The CLINT transactions (42_clint.md). -/

namespace Sys2Proof.Machine

/-- An access of `n` bytes to the CLINT at a register's offset (20_memory.md R101, R105). -/
def clintAt (slot : ClintSlot) (n : Nat) (s : State) (r : Result) : Result := inRange s.cfg.clintSize slot.offset n s r

/-- `rt_refresh()` (42_clint.md R241): the draw is any 64-bit value at or above `rt_last` (assumption log 7). -/
def State.rtRefresh (s : State) : State :=
  let d := if s.clint.rtLast ≤ Config.hostClock s.draws then Config.hostClock s.draws else s.clint.rtLast
  (s.setClint { s.clint with mtime := d, rtLast := d }).drawn

/-- `sync_all()` on the state. -/
def State.syncAll (s : State) : State := s.setClint (s.clint.syncAll s.cfg)

/-- `if CLINT_REALTIME: rt_refresh(); sync_all()` (42_clint.md R232). -/
def State.refreshTime (s : State) : State := if s.cfg.clintRealtime then s.rtRefresh.syncAll else s

/-- What follows a write of `mtimecmp[h]` (42_clint.md R234, R235). -/
def State.afterCmp (h : Nat) (s : State) : State :=
  if s.cfg.clintRealtime then s.rtRefresh.syncAll else s.setClint (s.clint.sync s.cfg h)

/-- `mtimecmp[h] <- v`, then the comparison. -/
def State.writeCmp (h : Nat) (v : DWord) (s : State) : State :=
  (s.setClint { s.clint with mtimecmp := cellSet s.cfg.clintMtimecmpInit h v s.clint.mtimecmp }).afterCmp h

/-- A store to `mtime` (42_clint.md R236). -/
def State.writeTime (v : DWord) (s : State) : State :=
  if !s.cfg.clintMtimeWritable || s.cfg.clintRealtime then s else (s.setClint { s.clint with mtime := v }).syncAll

/-- `CLINT.MSIP.LD` (42_clint.md R233). -/
def execClintMsipLd (h : Nat) (s : State) : Result :=
  clintAt (.msip h) 4 s <|
    if h < s.cfg.numHarts then okLoad 4 (if s.clint.msipOf h then 1#64 else 0#64) s else holeLoad s.cfg.holeClint 4 s

/-- `CLINT.MSIP.ST` (42_clint.md R233). -/
def execClintMsipSt (h : Nat) (v : Word) (s : State) : Result :=
  clintAt (.msip h) 4 s <|
    if h < s.cfg.numHarts then
      okStore (s.setClint (({ s.clint with msip := cellSet false h (v.getLsbD 0) s.clint.msip } : Clint).sync s.cfg h))
    else holeStore s.cfg.holeClint s

/-- `CLINT.MTIMECMP.LD64` (42_clint.md R234). -/
def execClintMtimecmpLd64 (h : Nat) (s : State) : Result :=
  clintAt (.cmp64 h) 8 s <|
    if h < s.cfg.numHarts then okLoad 8 (s.clint.cmp s.cfg h) s else holeLoad s.cfg.holeClint 8 s

/-- `CLINT.MTIMECMP.LDLO` (42_clint.md R235). -/
def execClintMtimecmpLdLo (h : Nat) (s : State) : Result :=
  clintAt (.cmpLo h) 4 s <|
    if h < s.cfg.numHarts then okLoad 4 ((lowHalf (s.clint.cmp s.cfg h)).setWidth 64) s else holeLoad s.cfg.holeClint 4 s

/-- `CLINT.MTIMECMP.LDHI` (42_clint.md R235). -/
def execClintMtimecmpLdHi (h : Nat) (s : State) : Result :=
  clintAt (.cmpHi h) 4 s <|
    if h < s.cfg.numHarts then okLoad 4 ((highHalf (s.clint.cmp s.cfg h)).setWidth 64) s else holeLoad s.cfg.holeClint 4 s

/-- `CLINT.MTIMECMP.ST64` (42_clint.md R234). -/
def execClintMtimecmpSt64 (h : Nat) (v : DWord) (s : State) : Result :=
  clintAt (.cmp64 h) 8 s <|
    if h < s.cfg.numHarts then okStore (s.writeCmp h v) else holeStore s.cfg.holeClint s

/-- `CLINT.MTIMECMP.STLO` (42_clint.md R235). -/
def execClintMtimecmpStLo (h : Nat) (v : Word) (s : State) : Result :=
  clintAt (.cmpLo h) 4 s <|
    if h < s.cfg.numHarts then okStore (s.writeCmp h (highHalf (s.clint.cmp s.cfg h) ++ v)) else holeStore s.cfg.holeClint s

/-- `CLINT.MTIMECMP.STHI` (42_clint.md R235). -/
def execClintMtimecmpStHi (h : Nat) (v : Word) (s : State) : Result :=
  clintAt (.cmpHi h) 4 s <|
    if h < s.cfg.numHarts then okStore (s.writeCmp h (v ++ lowHalf (s.clint.cmp s.cfg h))) else holeStore s.cfg.holeClint s

/-- `CLINT.MTIME.LD64` (42_clint.md R232). -/
def execClintMtimeLd64 (s : State) : Result :=
  clintAt .time64 8 s (okLoad 8 s.refreshTime.clint.mtime s.refreshTime)

/-- `CLINT.MTIME.LDLO` (42_clint.md R232). -/
def execClintMtimeLdLo (s : State) : Result :=
  clintAt .timeLo 4 s (okLoad 4 ((lowHalf s.refreshTime.clint.mtime).setWidth 64) s.refreshTime)

/-- `CLINT.MTIME.LDHI` (42_clint.md R232). -/
def execClintMtimeLdHi (s : State) : Result :=
  clintAt .timeHi 4 s (okLoad 4 ((highHalf s.refreshTime.clint.mtime).setWidth 64) s.refreshTime)

/-- `CLINT.MTIME.ST64` (42_clint.md R236). -/
def execClintMtimeSt64 (v : DWord) (s : State) : Result := clintAt .time64 8 s (okStore (s.writeTime v))

/-- `CLINT.MTIME.STLO` (42_clint.md R236). -/
def execClintMtimeStLo (v : Word) (s : State) : Result :=
  clintAt .timeLo 4 s (okStore (s.writeTime (highHalf s.clint.mtime ++ v)))

/-- `CLINT.MTIME.STHI` (42_clint.md R236). -/
def execClintMtimeStHi (v : Word) (s : State) : Result :=
  clintAt .timeHi 4 s (okStore (s.writeTime (v ++ lowHalf s.clint.mtime)))

/-- `CLINT.INCREMENT` (42_clint.md R230). -/
def execClintIncrement (delta : DWord) (s : State) : Result :=
  okStore (if s.cfg.clintRealtime then s.rtRefresh.syncAll
    else (s.setClint { s.clint with mtime := s.clint.mtime + delta }).syncAll)

/-- `DevLoad(clint, off, n)` (60_exceptions.md R379; 30_encoding.md R136, R137). -/
def clintLoad (off n : Nat) (s : State) : Result :=
  match clintSlot s.cfg.numHarts off n with
  | .msip h => execClintMsipLd h s
  | .cmp64 h => execClintMtimecmpLd64 h s
  | .cmpLo h => execClintMtimecmpLdLo h s
  | .cmpHi h => execClintMtimecmpLdHi h s
  | .time64 => execClintMtimeLd64 s
  | .timeLo => execClintMtimeLdLo s
  | .timeHi => execClintMtimeLdHi s
  | .hole => holeLoad s.cfg.holeClint n s
  | .refuse => .refused .implDefinedWidth

/-- `DevStore(clint, off, n, v)`. -/
def clintStore (off n : Nat) (v : DWord) (s : State) : Result :=
  match clintSlot s.cfg.numHarts off n with
  | .msip h => execClintMsipSt h (lowHalf v) s
  | .cmp64 h => execClintMtimecmpSt64 h v s
  | .cmpLo h => execClintMtimecmpStLo h (lowHalf v) s
  | .cmpHi h => execClintMtimecmpStHi h (lowHalf v) s
  | .time64 => execClintMtimeSt64 v s
  | .timeLo => execClintMtimeStLo (lowHalf v) s
  | .timeHi => execClintMtimeStHi (lowHalf v) s
  | .hole => holeStore s.cfg.holeClint s
  | .refuse => .refused .implDefinedWidth

end Sys2Proof.Machine
end

