-- ==== Sys2Proof/Machine/Plic.lean ====
section
/-! DEFINITION. The PLIC transactions (41_plic.md). -/

namespace Sys2Proof.Machine

/-- A 4-byte access to the PLIC at a register's offset (20_memory.md R101, R105). -/
def plicAt (slot : PlicSlot) (s : State) (r : Result) : Result := inRange s.cfg.plicSize slot.offset 4 s r

/-- `PLIC.PRIORITY.LD` (41_plic.md R181). -/
def execPlicPriorityLd (k : Nat) (s : State) : Result :=
  plicAt (.priority k) s <|
    if k = 0 then okLoad 4 0#64 s
    else if k ≤ s.cfg.plicNumSources then okLoad 4 ((s.plic.prio k).setWidth 64) s
    else holeLoad s.cfg.holePlic 4 s

/-- `PLIC.PRIORITY.ST` (41_plic.md R181). -/
def execPlicPrioritySt (k : Nat) (v : Word) (s : State) : Result :=
  plicAt (.priority k) s <|
    if k = 0 then okStore s
    else if k ≤ s.cfg.plicNumSources then
      okStore (s.setPlic (({ s.plic with
        priority := cellSet 0#32 k (lowBits s.cfg.plicPrioBits v) s.plic.priority } : Plic).update s.cfg))
    else holeStore s.cfg.holePlic s

/-- `PLIC.PENDING.LD` (41_plic.md R182). -/
def execPlicPendingLd (w : Nat) (s : State) : Result :=
  plicAt (.pending w) s <|
    if s.cfg.plicNumSources < 32 * w then holeLoad s.cfg.holePlic 4 s
    else okLoad 4 ((bitmapWord s.cfg.plicNumSources s.plic.pending w).setWidth 64) s

/-- `PLIC.PENDING.ST` (41_plic.md R182): read-only, ignored. -/
def execPlicPendingSt (w : Nat) (_v : Word) (s : State) : Result :=
  plicAt (.pending w) s <|
    if s.cfg.plicNumSources < 32 * w then holeStore s.cfg.holePlic s else okStore s

/-- `PLIC.ENABLE.LD` (41_plic.md R183). -/
def execPlicEnableLd (c w : Nat) (s : State) : Result :=
  plicAt (.enable c w) s <|
    if s.cfg.plicNumContexts ≤ c ∨ s.cfg.plicNumSources < 32 * w then holeLoad s.cfg.holePlic 4 s
    else okLoad 4 ((bitmapWord s.cfg.plicNumSources (s.plic.enabledOf c) w).setWidth 64) s

/-- `PLIC.ENABLE.ST` (41_plic.md R183). -/
def execPlicEnableSt (c w : Nat) (v : Word) (s : State) : Result :=
  plicAt (.enable c w) s <|
    if s.cfg.plicNumContexts ≤ c ∨ s.cfg.plicNumSources < 32 * w then holeStore s.cfg.holePlic s
    else okStore (s.setPlic (({ s.plic with
      enabled := cellSet 0#1024 c (putBitmapWord s.cfg.plicNumSources (s.plic.enabledOf c) w v) s.plic.enabled } : Plic).update s.cfg))

/-- `PLIC.THRESHOLD.LD` (41_plic.md R184). -/
def execPlicThresholdLd (c : Nat) (s : State) : Result :=
  plicAt (.threshold c) s <|
    if s.cfg.plicNumContexts ≤ c then holeLoad s.cfg.holePlic 4 s
    else okLoad 4 ((s.plic.thresh c).setWidth 64) s

/-- `PLIC.THRESHOLD.ST` (41_plic.md R184). -/
def execPlicThresholdSt (c : Nat) (v : Word) (s : State) : Result :=
  plicAt (.threshold c) s <|
    if s.cfg.plicNumContexts ≤ c then holeStore s.cfg.holePlic s
    else okStore (s.setPlic (({ s.plic with
      threshold := cellSet 0#32 c (lowBits s.cfg.plicPrioBits v) s.plic.threshold } : Plic).update s.cfg))

/-- `PLIC.CLAIM.LD` (41_plic.md R185, R193). -/
def execPlicClaimLd (c : Nat) (s : State) : Result :=
  plicAt (.claim c) s <|
    if s.cfg.plicNumContexts ≤ c then holeLoad s.cfg.holePlic 4 s
    else okLoad 4 (BitVec.ofNat 64 (s.plic.best s.cfg c s.cfg.plicNumSources)) (s.setPlic (s.plic.claim s.cfg c))

/-- `PLIC.COMPLETE.ST` (41_plic.md R186, R194). -/
def execPlicCompleteSt (c : Nat) (v : Word) (s : State) : Result :=
  plicAt (.claim c) s <|
    if s.cfg.plicNumContexts ≤ c then holeStore s.cfg.holePlic s
    else okStore (s.setPlic (s.plic.complete s.cfg c v.toNat))

/-- `PLIC.RAISE_IRQ` (41_plic.md R190). -/
def execPlicRaiseIrq (k : Nat) (level : Bool) (s : State) : Result :=
  if k < 1 ∨ s.cfg.plicNumSources < k then .refused .badSource else okStore (s.raiseIrq k level)

/-- `PLIC.UPDATE` (41_plic.md R191). -/
def execPlicUpdate (s : State) : Result := okStore (s.setPlic (s.plic.update s.cfg))

/-- `PLIC.INT_CHECK` (41_plic.md R192). -/
def execPlicIntCheck (c : Nat) (s : State) : Result :=
  if s.cfg.plicNumContexts ≤ c then .refused .badContext else .next (s.respond (.level (s.plic.lineOf c)))

/-- `DevLoad(plic, off, n)`: the width check, then the register map (60_exceptions.md R379; 30_encoding.md R134, R135). -/
def plicLoad (off n : Nat) (s : State) : Result :=
  if plicShapeOk off n then
    match plicSlot off with
    | .priority k => execPlicPriorityLd k s
    | .pending w => execPlicPendingLd w s
    | .enable c w => execPlicEnableLd c w s
    | .threshold c => execPlicThresholdLd c s
    | .claim c => execPlicClaimLd c s
    | .hole => holeLoad s.cfg.holePlic 4 s
  else .refused .implDefinedWidth

/-- `DevStore(plic, off, n, v)`. -/
def plicStore (off n : Nat) (v : DWord) (s : State) : Result :=
  if plicShapeOk off n then
    match plicSlot off with
    | .priority k => execPlicPrioritySt k (lowHalf v) s
    | .pending w => execPlicPendingSt w (lowHalf v) s
    | .enable c w => execPlicEnableSt c w (lowHalf v) s
    | .threshold c => execPlicThresholdSt c (lowHalf v) s
    | .claim c => execPlicCompleteSt c (lowHalf v) s
    | .hole => holeStore s.cfg.holePlic s
  else .refused .implDefinedWidth

end Sys2Proof.Machine
end

