-- ==== Sys2Proof/Machine/Sdhc.lean ====
section
/-! DEFINITION. The SDHC transactions (43_sdhc.md): the access gate, the register bank, the command path, the buffer-data port and
the resets. Each register's row is one line over `sdhcLoad` or `sdhcStore`, the byte-addressable access of 30_encoding.md R132. -/

namespace Sys2Proof.Machine

/-! ### Blocks -/

/-- The transfer ends: the transfer-active bits clear (43_sdhc.md R270, R278). -/
def Sdhc.idle (d : Sdhc) : Sdhc :=
  { (d.putPrsnt prsntRTA false).putPrsnt prsntWTA false with xfer := .none }

/-- `buf[0..511] <- image[pos .. pos+511]` (43_sdhc.md R273, R279). -/
def Sdhc.fillBuffer (d : Sdhc) : Sdhc :=
  { d with buf := copyBytes d.image d.pos.toNat 0 Config.blockSize d.buf }

/-- Arming the buffer: the buffer-enabled and buffer-ready bits (43_sdhc.md R273, R279). -/
def Sdhc.armRead (d : Sdhc) : Sdhc := (d.putPrsnt prsntBRE true).putNists nistsBRR true
def Sdhc.armWrite (d : Sdhc) : Sdhc := (d.putPrsnt prsntBWE true).putNists nistsBWR true

/-- `write_back()` (43_sdhc.md R280). -/
def Sdhc.writeBack (d : Sdhc) : Sdhc :=
  { d with image := copyBytes d.buf 0 d.pos.toNat Config.blockSize d.image }

/-- `advance()` (43_sdhc.md R279). -/
def Sdhc.advance (d : Sdhc) : Sdhc :=
  let e := { d with pos := d.pos + 512#64 }
  if e.xfer = .read then e.fillBuffer.armRead else e.armWrite

/-- The first part of `end_of_block()` (43_sdhc.md R278): cursor, buffer bits and block counter. -/
def Sdhc.closeBlock (d : Sdhc) : Sdhc :=
  let e := { d with cursor := 0 }
  let e := if e.xfer = .read then (e.putPrsnt prsntBRE false).putNists nistsBRR false
    else (e.putPrsnt prsntBWE false).putNists nistsBWR false
  if e.xfermode.getLsbD xfermodeBCE then { e with blkcnt := e.blkcnt - 1#16 } else e

/-- The transfer ends with this block (43_sdhc.md R278). -/
def Sdhc.lastBlock (d : Sdhc) : Bool :=
  !d.xfermode.getLsbD xfermodeMSBS || (d.xfermode.getLsbD xfermodeBCE && decide (d.blkcnt = 0#16))

/-- Transfer complete, if `NISTEN` enables it (43_sdhc.md R278). -/
def Sdhc.transferComplete (d : Sdhc) : Sdhc := if d.nisten.getLsbD nistsTC then d.putNists nistsTC true else d

/-- `end_of_block()` (43_sdhc.md R278). The capacity test is exact (assumption log 18). -/
def State.endOfBlock (s : State) : State :=
  let d := s.sdhc.closeBlock
  if d.lastBlock then s.setSdhc d.idle.transferComplete
  else if d.pos.toNat + 512 + 512 ≤ d.capacity.toNat then s.setSdhc d.advance
  else (s.setSdhc d.idle).logCapacity

/-! ### Commands -/

/-- `command_complete()` (43_sdhc.md R274). -/
def Sdhc.commandComplete (d : Sdhc) : Sdhc := if d.nisten.getLsbD nistsCC then d.putNists nistsCC true else d

/-- The four data commands (43_sdhc.md R273). -/
def isReadCommand (idx : Nat) : Bool := decide (idx = 17 ∨ idx = 18)
def isWriteCommand (idx : Nat) : Bool := decide (idx = 24 ∨ idx = 25)

/-- Starting a transfer (43_sdhc.md R273). -/
def Sdhc.startRead (d : Sdhc) : Sdhc :=
  ({ d.fillBuffer with cursor := 0, xfer := .read }.putPrsnt prsntRTA true).armRead
def Sdhc.startWrite (d : Sdhc) : Sdhc :=
  ({ d with cursor := 0, xfer := .write }.putPrsnt prsntWTA true).armWrite

/-- `issue(idx)` (43_sdhc.md R273). An index that is no data command only completes and is counted (60_exceptions.md R373, R374). -/
def State.issue (idx : Nat) (s : State) : Except Refusal State :=
  if isReadCommand idx || isWriteCommand idx then
    if s.sdhc.xfer ≠ .none then .error .commandDuringTransfer
    else if s.sdhc.blockSize ≠ Config.blockSize then .error .unsupportedBlockSize
    else
      let d := { s.sdhc with pos := s.sdhc.arg.setWidth 64 }
      if d.capacity.toNat < d.pos.toNat + 512 then .ok (s.setSdhc d.commandComplete).logCapacity
      else if isReadCommand idx then .ok (s.setSdhc d.startRead.commandComplete)
      else .ok (s.setSdhc d.startWrite.commandComplete)
  else .ok (s.setSdhc s.sdhc.commandComplete).logMalformed

/-! ### Resets -/

/-- `reset_all()` (43_sdhc.md R282): every register at its construction value; backing store, buffer, `pos` and line unchanged. -/
def Sdhc.resetAll (cfg : Config) (d : Sdhc) : Sdhc :=
  { Sdhc.construct cfg d.image d.buf with
    mounted := d.mounted, capacity := d.capacity, pos := d.pos, line := d.line }

/-- The command-reset bit (43_sdhc.md R282). -/
def Sdhc.resetCommand (d : Sdhc) : Sdhc := (d.putPrsnt prsntCMDINH false).putNists nistsCC false

/-- The data-reset bit (43_sdhc.md R282). -/
def Sdhc.resetData (d : Sdhc) : Sdhc :=
  let e := ((((d.putPrsnt prsntWTA false).putPrsnt prsntRTA false).putPrsnt prsntBWE false).putPrsnt prsntBRE false).putPrsnt
    prsntDATINH false
  let e := ((((e.putNists nistsTC false).putNists nistsBGE false).putNists nistsDMAINT false).putNists nistsBWR false).putNists
    nistsBRR false
  { e with cursor := 0, xfer := .none }

/-- `swrst(b)` on the latched byte, which then clears itself (43_sdhc.md R282). -/
def Sdhc.softReset (cfg : Config) (d : Sdhc) : Sdhc :=
  let b := d.swrst
  let e := if b.getLsbD 0 then d.resetAll cfg
    else
      let e := if b.getLsbD 1 then d.resetCommand else d
      if b.getLsbD 2 then e.resetData else e
  { e with swrst := 0#8 }

/-! ### The buffer-data port -/

/-- The four buffer bytes at the cursor, little-endian (43_sdhc.md R276). -/
def Sdhc.bufferWord (d : Sdhc) : Word :=
  readByte d.buf (d.cursor + 3) ++ readByte d.buf (d.cursor + 2) ++ readByte d.buf (d.cursor + 1) ++ readByte d.buf d.cursor

/-- Storing four bytes at the cursor (43_sdhc.md R277). -/
def Sdhc.putBufferWord (v : Word) (d : Sdhc) : Sdhc :=
  { d with buf := loopTo (fun j m => writeByte (d.cursor + j) (getByte v j) m) 4 d.buf }

/-- `BUFDATA` load (43_sdhc.md R276). A port whose buffer is not enabled changes nothing but the counter (assumption log 17). -/
def bufdataLoad (s : State) : Result :=
  if s.sdhc.xfer ≠ .read ∨ s.sdhc.prsnt.getLsbD prsntBRE = false then okLoad 4 0#64 s.logNotReady
  else if s.sdhc.blockSize ≠ Config.blockSize then .refused .unsupportedBlockSize
  else
    let t := s.setSdhc { s.sdhc with cursor := s.sdhc.cursor + 4 }
    let t := if t.sdhc.cursor = Config.blockSize then t.endOfBlock else t
    okLoad 4 (s.sdhc.bufferWord.setWidth 64) t.recomputeLine

/-- `BUFDATA` store (43_sdhc.md R277). -/
def bufdataStore (v : Word) (s : State) : Result :=
  if s.sdhc.xfer ≠ .write ∨ s.sdhc.prsnt.getLsbD prsntBWE = false then okStore s.logNotReady
  else if s.sdhc.blockSize ≠ Config.blockSize then .refused .unsupportedBlockSize
  else
    let d := s.sdhc.putBufferWord v
    let t := s.setSdhc { d with cursor := d.cursor + 4 }
    let t := if t.sdhc.cursor = Config.blockSize then (t.setSdhc t.sdhc.writeBack).endOfBlock else t
    okStore t.recomputeLine

/-! ### Accesses -/

/-- The checks before every SDHC access, in the order of 60_exceptions.md R379: range, mount gate (43_sdhc.md R263), shape of a
`BUFDATA` access (20_memory.md R105), holes (43_sdhc.md R262). -/
def sdhcGate (off n : Nat) (s : State) (r : Result) : Result :=
  inRange s.cfg.sdhcSize off n s <|
    if s.sdhc.mounted = false then failUnmapped s
    else if touchesBufdata off n ∧ ¬(off = 0x20 ∧ n = 4) then .refused .implDefinedWidth
    else if coversHole off n ∧ s.cfg.holeSdhc = .fail then failUnmapped s
    else r

/-- `DevLoad(sdhc, off, n)` (30_encoding.md R132; 43_sdhc.md R260 to R263, R276). -/
def sdhcLoad (off n : Nat) (s : State) : Result :=
  sdhcGate off n s <|
    if touchesBufdata off n then bufdataLoad s else okLoad n (s.sdhc.valueAt off n) s

/-- Steps 2 and 3 of a store: the covered bytes, then a software reset (43_sdhc.md R264). -/
def State.storeBytes (off n : Nat) (v : DWord) (s : State) : State :=
  let d := s.sdhc.putValueAt off n v
  s.setSdhc (if covers off n 0x2F then d.softReset s.cfg else d)

/-- Step 4 of a store: the command, if its high byte was written (43_sdhc.md R264, R272). -/
def State.storeCommand (off n : Nat) (s : State) : Except Refusal State :=
  if covers off n 0x0F then s.issue s.sdhc.cmdIndex else .ok s

/-- `DevStore(sdhc, off, n, v)` in the order of 43_sdhc.md R264. Step 5 runs for every store that gets here, also for one whose
bytes are all holes under policy `zero` or all read-only (assumption log 29: DEDUCED, unsafe). -/
def sdhcStore (off n : Nat) (v : DWord) (s : State) : Result :=
  sdhcGate off n s <|
    if touchesBufdata off n then bufdataStore (lowHalf v) s
    else
      match (s.storeBytes off n v).storeCommand off n with
      | .error r => .refused r
      | .ok t => okStore t.recomputeLine

/-! ### The rows of the opcode table -/

/-- `SDHC.SYSADDR.LD` (43_sdhc.md R260). -/
def execSdhcSysaddrLd (i : Nat) (n : Nat) (s : State) : Result := sdhcLoad (SdhcReg.sysaddr.lo + i) n s

/-- `SDHC.SYSADDR.ST` (43_sdhc.md R260). -/
def execSdhcSysaddrSt (i : Nat) (n : Nat) (v : DWord) (s : State) : Result := sdhcStore (SdhcReg.sysaddr.lo + i) n v s

/-- `SDHC.BLKSIZE.LD` (43_sdhc.md R260). -/
def execSdhcBlksizeLd (i : Nat) (n : Nat) (s : State) : Result := sdhcLoad (SdhcReg.blksize.lo + i) n s

/-- `SDHC.BLKSIZE.ST` (43_sdhc.md R260). -/
def execSdhcBlksizeSt (i : Nat) (n : Nat) (v : DWord) (s : State) : Result := sdhcStore (SdhcReg.blksize.lo + i) n v s

/-- `SDHC.BLKCNT.LD` (43_sdhc.md R260). -/
def execSdhcBlkcntLd (i : Nat) (n : Nat) (s : State) : Result := sdhcLoad (SdhcReg.blkcnt.lo + i) n s

/-- `SDHC.BLKCNT.ST` (43_sdhc.md R260). -/
def execSdhcBlkcntSt (i : Nat) (n : Nat) (v : DWord) (s : State) : Result := sdhcStore (SdhcReg.blkcnt.lo + i) n v s

/-- `SDHC.ARG.LD` (43_sdhc.md R260). -/
def execSdhcArgLd (i : Nat) (n : Nat) (s : State) : Result := sdhcLoad (SdhcReg.arg.lo + i) n s

/-- `SDHC.ARG.ST` (43_sdhc.md R260). -/
def execSdhcArgSt (i : Nat) (n : Nat) (v : DWord) (s : State) : Result := sdhcStore (SdhcReg.arg.lo + i) n v s

/-- `SDHC.XFERMODE.LD` (43_sdhc.md R260). -/
def execSdhcXfermodeLd (i : Nat) (n : Nat) (s : State) : Result := sdhcLoad (SdhcReg.xfermode.lo + i) n s

/-- `SDHC.XFERMODE.ST` (43_sdhc.md R283). -/
def execSdhcXfermodeSt (i : Nat) (n : Nat) (v : DWord) (s : State) : Result := sdhcStore (SdhcReg.xfermode.lo + i) n v s

/-- `SDHC.CMD.LD` (43_sdhc.md R260). -/
def execSdhcCmdLd (i : Nat) (n : Nat) (s : State) : Result := sdhcLoad (SdhcReg.cmd.lo + i) n s

/-- `SDHC.CMD.ST` (43_sdhc.md R272). -/
def execSdhcCmdSt (i : Nat) (n : Nat) (v : DWord) (s : State) : Result := sdhcStore (SdhcReg.cmd.lo + i) n v s

/-- `SDHC.RESP.LD` (43_sdhc.md R261). -/
def execSdhcRespLd (i : Nat) (n : Nat) (s : State) : Result := sdhcLoad (SdhcReg.resp.lo + i) n s

/-- `SDHC.RESP.ST` (43_sdhc.md R261). -/
def execSdhcRespSt (i : Nat) (n : Nat) (v : DWord) (s : State) : Result := sdhcStore (SdhcReg.resp.lo + i) n v s

/-- `SDHC.BUFDATA.LD` (43_sdhc.md R276). -/
def execSdhcBufdataLd (s : State) : Result := sdhcLoad SdhcReg.bufdata.lo 4 s

/-- `SDHC.BUFDATA.ST` (43_sdhc.md R277). -/
def execSdhcBufdataSt (v : Word) (s : State) : Result := sdhcStore SdhcReg.bufdata.lo 4 (v.setWidth 64) s

/-- `SDHC.PRSNT.LD` (43_sdhc.md R261). -/
def execSdhcPrsntLd (i : Nat) (n : Nat) (s : State) : Result := sdhcLoad (SdhcReg.prsnt.lo + i) n s

/-- `SDHC.PRSNT.ST` (43_sdhc.md R261). -/
def execSdhcPrsntSt (i : Nat) (n : Nat) (v : DWord) (s : State) : Result := sdhcStore (SdhcReg.prsnt.lo + i) n v s

/-- `SDHC.HOSTCTL.LD` (43_sdhc.md R260). -/
def execSdhcHostctlLd (i : Nat) (n : Nat) (s : State) : Result := sdhcLoad (SdhcReg.hostctl.lo + i) n s

/-- `SDHC.HOSTCTL.ST` (43_sdhc.md R260). -/
def execSdhcHostctlSt (i : Nat) (n : Nat) (v : DWord) (s : State) : Result := sdhcStore (SdhcReg.hostctl.lo + i) n v s

/-- `SDHC.PWRCTL.LD` (43_sdhc.md R260). -/
def execSdhcPwrctlLd (i : Nat) (n : Nat) (s : State) : Result := sdhcLoad (SdhcReg.pwrctl.lo + i) n s

/-- `SDHC.PWRCTL.ST` (43_sdhc.md R260). -/
def execSdhcPwrctlSt (i : Nat) (n : Nat) (v : DWord) (s : State) : Result := sdhcStore (SdhcReg.pwrctl.lo + i) n v s

/-- `SDHC.CLKCTL.LD` (43_sdhc.md R260). -/
def execSdhcClkctlLd (i : Nat) (n : Nat) (s : State) : Result := sdhcLoad (SdhcReg.clkctl.lo + i) n s

/-- `SDHC.CLKCTL.ST` (43_sdhc.md R260). -/
def execSdhcClkctlSt (i : Nat) (n : Nat) (v : DWord) (s : State) : Result := sdhcStore (SdhcReg.clkctl.lo + i) n v s

/-- `SDHC.TOCTL.LD` (43_sdhc.md R260). -/
def execSdhcToctlLd (i : Nat) (n : Nat) (s : State) : Result := sdhcLoad (SdhcReg.toctl.lo + i) n s

/-- `SDHC.TOCTL.ST` (43_sdhc.md R260). -/
def execSdhcToctlSt (i : Nat) (n : Nat) (v : DWord) (s : State) : Result := sdhcStore (SdhcReg.toctl.lo + i) n v s

/-- `SDHC.SWRST.LD` (43_sdhc.md R282). -/
def execSdhcSwrstLd (i : Nat) (n : Nat) (s : State) : Result := sdhcLoad (SdhcReg.swrst.lo + i) n s

/-- `SDHC.SWRST.ST` (43_sdhc.md R282). -/
def execSdhcSwrstSt (i : Nat) (n : Nat) (v : DWord) (s : State) : Result := sdhcStore (SdhcReg.swrst.lo + i) n v s

/-- `SDHC.NISTS.LD` (43_sdhc.md R284). -/
def execSdhcNistsLd (i : Nat) (n : Nat) (s : State) : Result := sdhcLoad (SdhcReg.nists.lo + i) n s

/-- `SDHC.NISTS.ST` (43_sdhc.md R284). -/
def execSdhcNistsSt (i : Nat) (n : Nat) (v : DWord) (s : State) : Result := sdhcStore (SdhcReg.nists.lo + i) n v s

/-- `SDHC.EISTS.LD` (43_sdhc.md R284). -/
def execSdhcEistsLd (i : Nat) (n : Nat) (s : State) : Result := sdhcLoad (SdhcReg.eists.lo + i) n s

/-- `SDHC.EISTS.ST` (43_sdhc.md R284). -/
def execSdhcEistsSt (i : Nat) (n : Nat) (v : DWord) (s : State) : Result := sdhcStore (SdhcReg.eists.lo + i) n v s

/-- `SDHC.NISTEN.LD` (43_sdhc.md R260). -/
def execSdhcNistenLd (i : Nat) (n : Nat) (s : State) : Result := sdhcLoad (SdhcReg.nisten.lo + i) n s

/-- `SDHC.NISTEN.ST` (43_sdhc.md R260). -/
def execSdhcNistenSt (i : Nat) (n : Nat) (v : DWord) (s : State) : Result := sdhcStore (SdhcReg.nisten.lo + i) n v s

/-- `SDHC.EISTEN.LD` (43_sdhc.md R260). -/
def execSdhcEistenLd (i : Nat) (n : Nat) (s : State) : Result := sdhcLoad (SdhcReg.eisten.lo + i) n s

/-- `SDHC.EISTEN.ST` (43_sdhc.md R260). -/
def execSdhcEistenSt (i : Nat) (n : Nat) (v : DWord) (s : State) : Result := sdhcStore (SdhcReg.eisten.lo + i) n v s

/-- `SDHC.NISIGEN.LD` (43_sdhc.md R260). -/
def execSdhcNisigenLd (i : Nat) (n : Nat) (s : State) : Result := sdhcLoad (SdhcReg.nisigen.lo + i) n s

/-- `SDHC.NISIGEN.ST` (43_sdhc.md R260). -/
def execSdhcNisigenSt (i : Nat) (n : Nat) (v : DWord) (s : State) : Result := sdhcStore (SdhcReg.nisigen.lo + i) n v s

/-- `SDHC.EISIGEN.LD` (43_sdhc.md R260). -/
def execSdhcEisigenLd (i : Nat) (n : Nat) (s : State) : Result := sdhcLoad (SdhcReg.eisigen.lo + i) n s

/-- `SDHC.EISIGEN.ST` (43_sdhc.md R260). -/
def execSdhcEisigenSt (i : Nat) (n : Nat) (v : DWord) (s : State) : Result := sdhcStore (SdhcReg.eisigen.lo + i) n v s

/-- `SDHC.CAPS.LD` (43_sdhc.md R261). -/
def execSdhcCapsLd (i : Nat) (n : Nat) (s : State) : Result := sdhcLoad (SdhcReg.caps.lo + i) n s

/-- `SDHC.CAPS.ST` (43_sdhc.md R261). -/
def execSdhcCapsSt (i : Nat) (n : Nat) (v : DWord) (s : State) : Result := sdhcStore (SdhcReg.caps.lo + i) n v s

/-- `SDHC.MAXCUR.LD` (43_sdhc.md R261). -/
def execSdhcMaxcurLd (i : Nat) (n : Nat) (s : State) : Result := sdhcLoad (SdhcReg.maxcur.lo + i) n s

/-- `SDHC.MAXCUR.ST` (43_sdhc.md R261). -/
def execSdhcMaxcurSt (i : Nat) (n : Nat) (v : DWord) (s : State) : Result := sdhcStore (SdhcReg.maxcur.lo + i) n v s

/-- `SDHC.VERSION.LD` (43_sdhc.md R261). -/
def execSdhcVersionLd (i : Nat) (n : Nat) (s : State) : Result := sdhcLoad (SdhcReg.version.lo + i) n s

/-- `SDHC.VERSION.ST` (43_sdhc.md R261). -/
def execSdhcVersionSt (i : Nat) (n : Nat) (v : DWord) (s : State) : Result := sdhcStore (SdhcReg.version.lo + i) n v s

end Sys2Proof.Machine
end

