-- ==== Sys2Proof/Machine/Uart.lean ====
section
/-! DEFINITION. The UART transactions (44_uart.md). A row whose `dlab` does not match the current `LCR[7]` reaches the register that
30_encoding.md R140 puts at its offset (assumption log 16). -/

namespace Sys2Proof.Machine

/-- A 1-byte access to register number `k` (30_encoding.md R140; 20_memory.md R101, R105). -/
def uartAt (k : Nat) (s : State) (r : Result) : Result := inRange s.cfg.uartSize (k * 2 ^ s.cfg.uartRegShift) 1 s r

/-- A load that returns `b`, and the `check_int()` after it (44_uart.md R340). -/
def uartLoaded (b : Byte) (s : State) : Result := okLoad 1 (b.setWidth 64) s.checkInt

/-- A store, and the `check_int()` after it (44_uart.md R340). -/
def uartStored (s : State) : Result := okStore s.checkInt

/-- `RBR` load (44_uart.md R342). -/
def rbrLoad (s : State) : Result :=
  match s.uart.rxq with
  | [] => uartLoaded 0#8 s
  | b :: rest => uartLoaded b (s.setUart { s.uart with rxq := rest })

/-- `THR` store (44_uart.md R343). -/
def thrStore (v : Byte) (s : State) : Result := uartStored (s.setUart { s.uart with txlog := s.uart.txlog ++ [v] })

/-- `DLL` and `DLM` (44_uart.md R344). -/
def dllLoad (s : State) : Result := uartLoaded s.uart.dll s
def dllStore (v : Byte) (s : State) : Result := uartStored (s.setUart { s.uart with dll := v })
def dlmLoad (s : State) : Result := uartLoaded s.uart.dlm s
def dlmStore (v : Byte) (s : State) : Result := uartStored (s.setUart { s.uart with dlm := v })

/-- `IER` (44_uart.md R341). -/
def ierLoad (s : State) : Result := uartLoaded (s.uart.ier &&& 0x0F#8) s
def ierStore (v : Byte) (s : State) : Result := uartStored (s.setUart { s.uart with ier := v &&& 0x0F#8 })

/-- `LSR` and `PSD` (44_uart.md R348). -/
def lsrLoad (s : State) : Result := uartLoaded s.uart.lsr s
def lsrStore (s : State) : Result := uartStored s
def psdLoad (s : State) : Result := uartLoaded s.uart.psd s
def psdStore (v : Byte) (s : State) : Result := uartStored (s.setUart { s.uart with psd := v })

/-- `UART.RBR.LD` (44_uart.md R342). -/
def execUartRbrLd (s : State) : Result := uartAt 0 s (if s.uart.dlab then dllLoad s else rbrLoad s)

/-- `UART.THR.ST` (44_uart.md R343). -/
def execUartThrSt (v : Byte) (s : State) : Result := uartAt 0 s (if s.uart.dlab then dllStore v s else thrStore v s)

/-- `UART.DLL.LD` (44_uart.md R344). -/
def execUartDllLd (s : State) : Result := uartAt 0 s (if s.uart.dlab then dllLoad s else rbrLoad s)

/-- `UART.DLL.ST` (44_uart.md R344). -/
def execUartDllSt (v : Byte) (s : State) : Result := uartAt 0 s (if s.uart.dlab then dllStore v s else thrStore v s)

/-- `UART.IER.LD` (44_uart.md R341). -/
def execUartIerLd (s : State) : Result := uartAt 1 s (if s.uart.dlab then dlmLoad s else ierLoad s)

/-- `UART.IER.ST` (44_uart.md R341). -/
def execUartIerSt (v : Byte) (s : State) : Result := uartAt 1 s (if s.uart.dlab then dlmStore v s else ierStore v s)

/-- `UART.DLM.LD` (44_uart.md R344). -/
def execUartDlmLd (s : State) : Result := uartAt 1 s (if s.uart.dlab then dlmLoad s else ierLoad s)

/-- `UART.DLM.ST` (44_uart.md R344). -/
def execUartDlmSt (v : Byte) (s : State) : Result := uartAt 1 s (if s.uart.dlab then dlmStore v s else ierStore v s)

/-- `UART.IIR.LD` (44_uart.md R345). -/
def execUartIirLd (s : State) : Result := uartAt 2 s (uartLoaded (s.uart.iir s.cfg) s)

/-- `UART.FCR.ST` (44_uart.md R346): bit 0 is kept. -/
def execUartFcrSt (v : Byte) (s : State) : Result :=
  uartAt 2 s (uartStored (s.setUart { s.uart with fcr := v &&& 0x01#8 }))

/-- `UART.LCR.LD` (44_uart.md R347). -/
def execUartLcrLd (s : State) : Result := uartAt 3 s (uartLoaded s.uart.lcr s)

/-- `UART.LCR.ST` (44_uart.md R347). -/
def execUartLcrSt (v : Byte) (s : State) : Result := uartAt 3 s (uartStored (s.setUart { s.uart with lcr := v }))

/-- `UART.MCR.LD` (44_uart.md R347). -/
def execUartMcrLd (s : State) : Result := uartAt 4 s (uartLoaded s.uart.mcr s)

/-- `UART.MCR.ST` (44_uart.md R347). -/
def execUartMcrSt (v : Byte) (s : State) : Result := uartAt 4 s (uartStored (s.setUart { s.uart with mcr := v }))

/-- `UART.LSR.LD` (44_uart.md R348). -/
def execUartLsrLd (s : State) : Result := uartAt 5 s (if s.uart.dlab then psdLoad s else lsrLoad s)

/-- `UART.LSR.ST` (44_uart.md R348): ignored. -/
def execUartLsrSt (v : Byte) (s : State) : Result := uartAt 5 s (if s.uart.dlab then psdStore v s else lsrStore s)

/-- `UART.PSD.LD` (44_uart.md R348). -/
def execUartPsdLd (s : State) : Result := uartAt 5 s (if s.uart.dlab then psdLoad s else lsrLoad s)

/-- `UART.PSD.ST` (44_uart.md R348). -/
def execUartPsdSt (v : Byte) (s : State) : Result := uartAt 5 s (if s.uart.dlab then psdStore v s else lsrStore s)

/-- `UART.MSR.LD` (44_uart.md R348). -/
def execUartMsrLd (s : State) : Result := uartAt 6 s (uartLoaded s.cfg.uartMsrValue s)

/-- `UART.MSR.ST` (44_uart.md R348): ignored. -/
def execUartMsrSt (_v : Byte) (s : State) : Result := uartAt 6 s (uartStored s)

/-- `UART.SCR.LD` (44_uart.md R347). -/
def execUartScrLd (s : State) : Result := uartAt 7 s (uartLoaded s.uart.scr s)

/-- `UART.SCR.ST` (44_uart.md R347). -/
def execUartScrSt (v : Byte) (s : State) : Result := uartAt 7 s (uartStored (s.setUart { s.uart with scr := v }))

/-- `UART.POLL` (44_uart.md R350). -/
def execUartPoll (s : State) : Result := okStore s.checkInt

/-- `UART.HOST_INPUT` (44_uart.md R351): no `check_int()`. -/
def execUartHostInput (bytes : List Byte) (s : State) : Result :=
  okStore (s.setUart { s.uart with rxq := s.uart.rxq ++ bytes })

/-- `DevLoad(uart, off, n)`: the width check, then the row that `off` and `DLAB` select (60_exceptions.md R379; 30_encoding.md R131,
R140); a hole runs no `check_int()` (44_uart.md R349). -/
def uartLoad (off n : Nat) (s : State) : Result :=
  if n = 1 then
    match uartIndex s.cfg.uartRegShift off with
    | some 0 => if s.uart.dlab then execUartDllLd s else execUartRbrLd s
    | some 1 => if s.uart.dlab then execUartDlmLd s else execUartIerLd s
    | some 2 => execUartIirLd s
    | some 3 => execUartLcrLd s
    | some 4 => execUartMcrLd s
    | some 5 => if s.uart.dlab then execUartPsdLd s else execUartLsrLd s
    | some 6 => execUartMsrLd s
    | some 7 => execUartScrLd s
    | _ => holeLoad s.cfg.holeUart 1 s
  else .refused .implDefinedWidth

/-- `DevStore(uart, off, n, v)`. -/
def uartStore (off n : Nat) (v : DWord) (s : State) : Result :=
  if n = 1 then
    match uartIndex s.cfg.uartRegShift off with
    | some 0 => if s.uart.dlab then execUartDllSt (getByte v 0) s else execUartThrSt (getByte v 0) s
    | some 1 => if s.uart.dlab then execUartDlmSt (getByte v 0) s else execUartIerSt (getByte v 0) s
    | some 2 => execUartFcrSt (getByte v 0) s
    | some 3 => execUartLcrSt (getByte v 0) s
    | some 4 => execUartMcrSt (getByte v 0) s
    | some 5 => if s.uart.dlab then execUartPsdSt (getByte v 0) s else execUartLsrSt (getByte v 0) s
    | some 6 => execUartMsrSt (getByte v 0) s
    | some 7 => execUartScrSt (getByte v 0) s
    | _ => holeStore s.cfg.holeUart s
  else .refused .implDefinedWidth

end Sys2Proof.Machine
end

