-- ==== Sys2Proof/Machine/Bus.lean ====
section
/-! DEFINITION. The Bus transactions (40_bus.md), what the Bus does with a record that is no row of the table, and how records
come to the subsystem (assumption log 2). -/

namespace Sys2Proof.Machine

/-- The low `n` bytes of a value. -/
def lowBytes (n : Nat) (v : DWord) : DWord := v &&& BitVec.ofNat 64 (2 ^ (8 * n) - 1)

/-- An opaque device's load: its result is configuration, so a free value (40_bus.md R167; assumption log 8). -/
def otherLoad (id off n : Nat) (s : State) : Result :=
  match Config.otherLoad id off n s.draws with
  | .ok v => okLoad n (lowBytes n v) s.drawn
  | .fail => failUnmapped s.drawn
  | .refuse => .refused .otherDevice

/-- An opaque device's store. -/
def otherStore (id off n : Nat) (v : DWord) (s : State) : Result :=
  match Config.otherStore id off n (lowBytes n v) s.draws with
  | .ok => okStore s.drawn
  | .fail => failUnmapped s.drawn
  | .refuse => .refused .otherDevice

/-- `DevLoad(d, off, n)` (00_scope.md R9). Routing never ends in a nested Bus (40_bus.md R166). -/
def deviceLoad (d : Device) (off n : Nat) (s : State) : Result :=
  match d with
  | .plic => plicLoad off n s
  | .clint => clintLoad off n s
  | .uart => uartLoad off n s
  | .sdhc => sdhcLoad off n s
  | .bus _ _ => failUnmapped s
  | .other id _ => otherLoad id off n s

/-- `DevStore(d, off, n, v)` (00_scope.md R9). -/
def deviceStore (d : Device) (off n : Nat) (v : DWord) (s : State) : Result :=
  match d with
  | .plic => plicStore off n v s
  | .clint => clintStore off n v s
  | .uart => uartStore off n v s
  | .sdhc => sdhcStore off n v s
  | .bus _ _ => failUnmapped s
  | .other id _ => otherStore id off n v s

/-- `BUS.LOAD` (40_bus.md R163). -/
def execBusLoad (addr : DWord) (n : Nat) (s : State) : Result :=
  if lenOk n then
    match s.route addr n with
    | none => failUnmapped s
    | some (d, off) => deviceLoad d off n s
  else .refused .badLength

/-- `BUS.STORE` (40_bus.md R164). -/
def execBusStore (addr : DWord) (n : Nat) (v : DWord) (s : State) : Result :=
  if lenOk n then
    match s.route addr n with
    | none => failUnmapped s
    | some (d, off) => deviceStore d off n v s
  else .refused .badLength

/-- The ranges `[b, b+k)` and `[b', b'+k')` intersect (40_bus.md R161). -/
def rangesMeet (b k b' k' : Nat) : Bool := decide (b < b' + k' ∧ b' < b + k)

/-- `BUS.ADD_DEVICE` (40_bus.md R161): it runs only before the simulation starts, and an error is fatal. -/
def execBusAddDevice (on : Nat) (base : DWord) (d : Device) (s : State) : Result :=
  if s.started then .refused .addDeviceAfterStart
  else if deviceSize s.cfg d = 0 ∨ 2 ^ 64 < base.toNat + deviceSize s.cfg d then .fault .constructionBadRange
  else if (s.devmap on).any fun m => rangesMeet base.toNat (deviceSize s.cfg d) m.base.toNat m.size then
    .fault .constructionOverlap
  else
    .next { s.setBus (cellSet [] on (insertMapping ⟨base, d, deviceSize s.cfg d⟩ (s.devmap on)) s.bus) with resp := .ok }

/-- `BUS.FIND_DEVICE` (40_bus.md R165), a read-only lookup on the root Bus. -/
def execBusFindDevice (addr : DWord) (s : State) : Result :=
  .next { s with resp := .found (resolve (s.devmap 0) addr.toNat 1) }

/-- What the Bus does with a record that names no row: an atomic access and a fetch aimed at a device are refused
(20_memory.md R113, R114), and no device claims one aimed elsewhere (assumption log 19). -/
def rejectRecord (e : DecodeError) (s : State) : Result :=
  match e with
  | .atomic addr n =>
    if lenOk n then
      match s.route addr n with
      | none => failUnmapped s
      | some _ => .refused .noAtomicMmio
    else .refused .badLength
  | .fetch addr n =>
    if lenOk n then
      match s.route addr n with
      | none => failUnmapped s
      | some (.other _ _, _) => .refused .otherDevice
      | some _ => .refused .fetchFromDevice
    else .refused .badLength
  | .truncated => .refused (.undecodable .truncated)
  | .badFormat => .refused (.undecodable .badFormat)
  | .badSelector => .refused (.undecodable .badSelector)
  | .reservedField => .refused (.undecodable .reservedField)
  | .noRow => .refused (.undecodable .noRow)

/-- An agent issues a transaction: its record joins the queue (assumption log 2). -/
def State.enqueue (record : List Byte) (s : State) : State := { s with requests := s.requests ++ [record] }

/-- The stepping driver's tick, `increment(CLINT_TICK_DELTA)` (42_clint.md R231; assumption log 24). -/
def State.driverTick (s : State) : State := s.enqueue (encode (.clintIncrement s.cfg.clintTickDelta))

end Sys2Proof.Machine
end

