-- ==== Sys2Proof/Machine/Dispatch.lean ====
section
/-! DEFINITION. One arm for each transaction. -/

namespace Sys2Proof.Machine

def exec (i : Instr) (s : State) : Host.Outcome State Fault Refusal :=
  match i with
  | .busLoad addr n => Sys2Proof.Machine.execBusLoad addr n s
  | .busStore addr n v => Sys2Proof.Machine.execBusStore addr n v s
  | .busAddDevice on base d => Sys2Proof.Machine.execBusAddDevice on base d s
  | .busFindDevice addr => Sys2Proof.Machine.execBusFindDevice addr s
  | .plicPriorityLd k => Sys2Proof.Machine.execPlicPriorityLd k s
  | .plicPrioritySt k v => Sys2Proof.Machine.execPlicPrioritySt k v s
  | .plicPendingLd w => Sys2Proof.Machine.execPlicPendingLd w s
  | .plicPendingSt w v => Sys2Proof.Machine.execPlicPendingSt w v s
  | .plicEnableLd c w => Sys2Proof.Machine.execPlicEnableLd c w s
  | .plicEnableSt c w v => Sys2Proof.Machine.execPlicEnableSt c w v s
  | .plicThresholdLd c => Sys2Proof.Machine.execPlicThresholdLd c s
  | .plicThresholdSt c v => Sys2Proof.Machine.execPlicThresholdSt c v s
  | .plicClaimLd c => Sys2Proof.Machine.execPlicClaimLd c s
  | .plicCompleteSt c v => Sys2Proof.Machine.execPlicCompleteSt c v s
  | .plicRaiseIrq k level => Sys2Proof.Machine.execPlicRaiseIrq k level s
  | .plicUpdate => Sys2Proof.Machine.execPlicUpdate s
  | .plicIntCheck c => Sys2Proof.Machine.execPlicIntCheck c s
  | .clintMsipLd h => Sys2Proof.Machine.execClintMsipLd h s
  | .clintMsipSt h v => Sys2Proof.Machine.execClintMsipSt h v s
  | .clintMtimecmpLd64 h => Sys2Proof.Machine.execClintMtimecmpLd64 h s
  | .clintMtimecmpLdLo h => Sys2Proof.Machine.execClintMtimecmpLdLo h s
  | .clintMtimecmpLdHi h => Sys2Proof.Machine.execClintMtimecmpLdHi h s
  | .clintMtimecmpSt64 h v => Sys2Proof.Machine.execClintMtimecmpSt64 h v s
  | .clintMtimecmpStLo h v => Sys2Proof.Machine.execClintMtimecmpStLo h v s
  | .clintMtimecmpStHi h v => Sys2Proof.Machine.execClintMtimecmpStHi h v s
  | .clintMtimeLd64 => Sys2Proof.Machine.execClintMtimeLd64 s
  | .clintMtimeLdLo => Sys2Proof.Machine.execClintMtimeLdLo s
  | .clintMtimeLdHi => Sys2Proof.Machine.execClintMtimeLdHi s
  | .clintMtimeSt64 v => Sys2Proof.Machine.execClintMtimeSt64 v s
  | .clintMtimeStLo v => Sys2Proof.Machine.execClintMtimeStLo v s
  | .clintMtimeStHi v => Sys2Proof.Machine.execClintMtimeStHi v s
  | .clintIncrement delta => Sys2Proof.Machine.execClintIncrement delta s
  | .sdhcSysaddrLd k n => Sys2Proof.Machine.execSdhcSysaddrLd k n s
  | .sdhcSysaddrSt k n v => Sys2Proof.Machine.execSdhcSysaddrSt k n v s
  | .sdhcBlksizeLd k n => Sys2Proof.Machine.execSdhcBlksizeLd k n s
  | .sdhcBlksizeSt k n v => Sys2Proof.Machine.execSdhcBlksizeSt k n v s
  | .sdhcBlkcntLd k n => Sys2Proof.Machine.execSdhcBlkcntLd k n s
  | .sdhcBlkcntSt k n v => Sys2Proof.Machine.execSdhcBlkcntSt k n v s
  | .sdhcArgLd k n => Sys2Proof.Machine.execSdhcArgLd k n s
  | .sdhcArgSt k n v => Sys2Proof.Machine.execSdhcArgSt k n v s
  | .sdhcXfermodeLd k n => Sys2Proof.Machine.execSdhcXfermodeLd k n s
  | .sdhcXfermodeSt k n v => Sys2Proof.Machine.execSdhcXfermodeSt k n v s
  | .sdhcCmdLd k n => Sys2Proof.Machine.execSdhcCmdLd k n s
  | .sdhcCmdSt k n v => Sys2Proof.Machine.execSdhcCmdSt k n v s
  | .sdhcRespLd k n => Sys2Proof.Machine.execSdhcRespLd k n s
  | .sdhcRespSt k n v => Sys2Proof.Machine.execSdhcRespSt k n v s
  | .sdhcBufdataLd => Sys2Proof.Machine.execSdhcBufdataLd s
  | .sdhcBufdataSt v => Sys2Proof.Machine.execSdhcBufdataSt v s
  | .sdhcPrsntLd k n => Sys2Proof.Machine.execSdhcPrsntLd k n s
  | .sdhcPrsntSt k n v => Sys2Proof.Machine.execSdhcPrsntSt k n v s
  | .sdhcHostctlLd k n => Sys2Proof.Machine.execSdhcHostctlLd k n s
  | .sdhcHostctlSt k n v => Sys2Proof.Machine.execSdhcHostctlSt k n v s
  | .sdhcPwrctlLd k n => Sys2Proof.Machine.execSdhcPwrctlLd k n s
  | .sdhcPwrctlSt k n v => Sys2Proof.Machine.execSdhcPwrctlSt k n v s
  | .sdhcClkctlLd k n => Sys2Proof.Machine.execSdhcClkctlLd k n s
  | .sdhcClkctlSt k n v => Sys2Proof.Machine.execSdhcClkctlSt k n v s
  | .sdhcToctlLd k n => Sys2Proof.Machine.execSdhcToctlLd k n s
  | .sdhcToctlSt k n v => Sys2Proof.Machine.execSdhcToctlSt k n v s
  | .sdhcSwrstLd k n => Sys2Proof.Machine.execSdhcSwrstLd k n s
  | .sdhcSwrstSt k n v => Sys2Proof.Machine.execSdhcSwrstSt k n v s
  | .sdhcNistsLd k n => Sys2Proof.Machine.execSdhcNistsLd k n s
  | .sdhcNistsSt k n v => Sys2Proof.Machine.execSdhcNistsSt k n v s
  | .sdhcEistsLd k n => Sys2Proof.Machine.execSdhcEistsLd k n s
  | .sdhcEistsSt k n v => Sys2Proof.Machine.execSdhcEistsSt k n v s
  | .sdhcNistenLd k n => Sys2Proof.Machine.execSdhcNistenLd k n s
  | .sdhcNistenSt k n v => Sys2Proof.Machine.execSdhcNistenSt k n v s
  | .sdhcEistenLd k n => Sys2Proof.Machine.execSdhcEistenLd k n s
  | .sdhcEistenSt k n v => Sys2Proof.Machine.execSdhcEistenSt k n v s
  | .sdhcNisigenLd k n => Sys2Proof.Machine.execSdhcNisigenLd k n s
  | .sdhcNisigenSt k n v => Sys2Proof.Machine.execSdhcNisigenSt k n v s
  | .sdhcEisigenLd k n => Sys2Proof.Machine.execSdhcEisigenLd k n s
  | .sdhcEisigenSt k n v => Sys2Proof.Machine.execSdhcEisigenSt k n v s
  | .sdhcCapsLd k n => Sys2Proof.Machine.execSdhcCapsLd k n s
  | .sdhcCapsSt k n v => Sys2Proof.Machine.execSdhcCapsSt k n v s
  | .sdhcMaxcurLd k n => Sys2Proof.Machine.execSdhcMaxcurLd k n s
  | .sdhcMaxcurSt k n v => Sys2Proof.Machine.execSdhcMaxcurSt k n v s
  | .sdhcVersionLd k n => Sys2Proof.Machine.execSdhcVersionLd k n s
  | .sdhcVersionSt k n v => Sys2Proof.Machine.execSdhcVersionSt k n v s
  | .uartRbrLd => Sys2Proof.Machine.execUartRbrLd s
  | .uartThrSt v => Sys2Proof.Machine.execUartThrSt v s
  | .uartDllLd => Sys2Proof.Machine.execUartDllLd s
  | .uartDllSt v => Sys2Proof.Machine.execUartDllSt v s
  | .uartIerLd => Sys2Proof.Machine.execUartIerLd s
  | .uartIerSt v => Sys2Proof.Machine.execUartIerSt v s
  | .uartDlmLd => Sys2Proof.Machine.execUartDlmLd s
  | .uartDlmSt v => Sys2Proof.Machine.execUartDlmSt v s
  | .uartIirLd => Sys2Proof.Machine.execUartIirLd s
  | .uartFcrSt v => Sys2Proof.Machine.execUartFcrSt v s
  | .uartLcrLd => Sys2Proof.Machine.execUartLcrLd s
  | .uartLcrSt v => Sys2Proof.Machine.execUartLcrSt v s
  | .uartMcrLd => Sys2Proof.Machine.execUartMcrLd s
  | .uartMcrSt v => Sys2Proof.Machine.execUartMcrSt v s
  | .uartLsrLd => Sys2Proof.Machine.execUartLsrLd s
  | .uartLsrSt v => Sys2Proof.Machine.execUartLsrSt v s
  | .uartPsdLd => Sys2Proof.Machine.execUartPsdLd s
  | .uartPsdSt v => Sys2Proof.Machine.execUartPsdSt v s
  | .uartMsrLd => Sys2Proof.Machine.execUartMsrLd s
  | .uartMsrSt v => Sys2Proof.Machine.execUartMsrSt v s
  | .uartScrLd => Sys2Proof.Machine.execUartScrLd s
  | .uartScrSt v => Sys2Proof.Machine.execUartScrSt v s
  | .uartPoll => Sys2Proof.Machine.execUartPoll s
  | .uartHostInput bytes => Sys2Proof.Machine.execUartHostInput bytes s

end Sys2Proof.Machine
end

