-- ==== Sys2Proof/Machine/Step.lean ====
section
/-! DEFINITION. One step: the oldest transaction in the queue is taken and run (20_memory.md R106, R111; assumption log 2). -/

namespace Sys2Proof.Machine

/-- One step. With no transaction waiting, nothing changes. -/
def step (s : State) : Host.Outcome State Fault Refusal :=
  match s.requests with
  | [] => .next s
  | record :: rest =>
    match decode record with
    | .ok i => exec i { s with requests := rest }
    | .error e => rejectRecord e { s with requests := rest }

/-- `s` with the record whose bits are `w` as the next transaction (assumption log 2, 3). -/
def State.withFetchWord (s : State) (nbits w : Nat) : State :=
  { s with requests := wordRecord nbits w :: s.requests }

end Sys2Proof.Machine
end

