-- ==== Sys2Proof/Machine/Construct.lean ====
section
/-! DEFINITION. Construction of the machine from a launch (70_reset_and_hazards.md R400 to R402) and its fatal errors
(60_exceptions.md R375). -/

namespace Sys2Proof.Machine

/-- Construction in the order of 70_reset_and_hazards.md R402: the backing image and FIFO, the parameters, then the ranges that machine setup
gives to `add_device`. "A model does not build a machine from such a configuration" (60_exceptions.md R375; assumption log 13). -/
def State.construct (l : Launch) : Except Fault State :=
  if l.cfg.sdhcMounted && l.image.isNone then .error .constructionImageMissing
  else if l.rxq.isNone then .error .constructionFifoMissing
  else if !l.cfg.paramsValid then .error .constructionParameters
  else if !l.cfg.rangesFit then .error .constructionBadRange
  else if !l.cfg.rangesApart then .error .constructionOverlap
  else .ok (State.initial l)

end Sys2Proof.Machine
end

