-- ==== Sys2Proof/Safety.lean ====
section
/-! DEFINITION. The terms of the claims: what a transaction leaves alone, and the invariants of each block. -/

namespace Sys2Proof.Machine

/-! ### Frames -/

/-- The parts of State that a transaction's frame names. -/
inductive Block where
  | bus
  | plic
  | clint
  | sdhc
  | uart
  | counters
  | draws
deriving DecidableEq, Repr

/-- The two states agree on a part. -/
def Block.same (s t : State) : Block → Prop
  | .bus => t.bus = s.bus
  | .plic => t.plic = s.plic
  | .clint => t.clint = s.clint
  | .sdhc => t.sdhc = s.sdhc
  | .uart => t.uart = s.uart
  | .counters => t.counters = s.counters
  | .draws => t.draws = s.draws

/-- Nothing but the parts in `touched`, the answer and the started flag differs. -/
def Unchanged (touched : List Block) (s t : State) : Prop :=
  t.cfg = s.cfg ∧ t.requests = s.requests ∧ ∀ b, b ∉ touched → b.same s t

/-- `t` is `s` after a transaction that answered `r` and touched only the parts in `touched`. -/
def Answered (touched : List Block) (r : Response) (s t : State) : Prop :=
  t.resp = r ∧ t.started = true ∧ Unchanged touched s t

/-- What a load of `n` bytes at a hole answers (30_encoding.md R150). -/
def holeLoadAnswer (n : Nat) : HolePolicy → Response
  | .zero => .loaded n 0#64
  | .fail => .failed

/-- What a store at a hole answers (30_encoding.md R150). -/
def holeStoreAnswer : HolePolicy → Response
  | .zero => .ok
  | .fail => .failed

/-! ### PLIC -/

/-- The PLIC after a device whose line was `old` recomputes it as `l`: it calls `raise_irq` on a change and while the line is
high (43_sdhc.md R285, 44_uart.md R350). -/
def Plic.signalled (cfg : Config) (k : Nat) (old l : Bool) (p : Plic) : Plic :=
  if l = true ∨ l ≠ old then p.raise cfg k l else p

/-- `eligible(c, k)` in the words of 41_plic.md R191. -/
def Plic.Eligible (cfg : Config) (p : Plic) (c k : Nat) : Prop :=
  p.pending.getLsbD k = true ∧ (p.enabledOf c).getLsbD k = true ∧
  (∀ c', c' < cfg.plicNumContexts → (p.claimedOf c').getLsbD k = false) ∧ (p.thresh c).toNat < (p.prio k).toNat

/-- A source number (00_scope.md R12). -/
abbrev IsSource (cfg : Config) (k : Nat) : Prop := 1 ≤ k ∧ k ≤ cfg.plicNumSources

/-- `irq_out` is what `update()` computes from the other arrays (10_state.md R29(b)). -/
def Plic.LinesCurrent (cfg : Config) (p : Plic) : Prop :=
  ∀ c, c < cfg.plicNumContexts → (p.lineOf c = true ↔ ∃ k, IsSource cfg k ∧ p.Eligible cfg c k)

/-- At most one context has claimed a source (10_state.md R29(a)). -/
def Plic.Exclusive (cfg : Config) (p : Plic) : Prop :=
  ∀ k c c', c < cfg.plicNumContexts → c' < cfg.plicNumContexts →
    (p.claimedOf c).getLsbD k = true → (p.claimedOf c').getLsbD k = true → c = c'

/-- The registers hold only the bits and the sources the spec gives them (10_state.md R23 to R27). -/
structure Plic.InBounds (cfg : Config) (p : Plic) : Prop where
  prio : ∀ k, (p.prio k).toNat < 2 ^ cfg.plicPrioBits
  prioZero : p.prio 0 = 0#32
  thresh : ∀ c, (p.thresh c).toNat < 2 ^ cfg.plicPrioBits
  pending : ∀ k, p.pending.getLsbD k = true → IsSource cfg k
  enabled : ∀ c k, (p.enabledOf c).getLsbD k = true → IsSource cfg k
  claimed : ∀ c k, (p.claimedOf c).getLsbD k = true → IsSource cfg k

/-! ### CLINT -/

/-- The outputs are the levels of 42_clint.md R237. -/
def Clint.OutputsCurrent (cfg : Config) (c : Clint) : Prop :=
  ∀ h, h < cfg.numHarts → c.msipOutOf h = c.msipOf h ∧ c.mtipOutOf h = decide ((c.cmp cfg h).toNat ≤ c.mtime.toNat)

/-! ### SDHC -/

/-- The transfer state agrees with the present-state bits, the cursor and the image (10_state.md R36; 43_sdhc.md R270, R288). -/
structure Sdhc.Consistent (d : Sdhc) : Prop where
  bre : d.prsnt.getLsbD prsntBRE = true → d.xfer = .read
  bwe : d.prsnt.getLsbD prsntBWE = true → d.xfer = .write
  rta : d.prsnt.getLsbD prsntRTA = true ↔ d.xfer = .read
  wta : d.prsnt.getLsbD prsntWTA = true ↔ d.xfer = .write
  cursor : d.cursor < Config.blockSize ∧ d.cursor % 4 = 0
  inImage : d.xfer ≠ .none → d.pos.toNat + Config.blockSize ≤ d.capacity.toNat

/-- The bits that no transaction changes (10_state.md R44, R46, R48, R53 to R55, R60 to R62; 43_sdhc.md R263). -/
structure Sdhc.Fixed (cfg : Config) (d : Sdhc) : Prop where
  mounted : d.mounted = cfg.sdhcMounted
  capacity : d.capacity = cfg.sdhcCapacity
  dma : d.xfermode.getLsbD 0 = false
  resp : d.resp0 = 0#32 ∧ d.resp1 = 0#32 ∧ d.resp2 = 0#32 ∧ d.resp3 = 0#32
  prsnt : d.prsnt &&& ~~~0x00000F00#32 = 0x00090000#32
  swrst : d.swrst = 0#8
  nists : d.nists &&& ~~~0x0033#16 = 0#16
  eists : d.eists = 0#16
  caps : d.caps = cfg.sdhcCaps
  maxcur : d.maxcur = cfg.sdhcMaxcur
  version : d.version = cfg.sdhcVersion

/-- The line is the level last computed from the registers (10_state.md R37, 43_sdhc.md R285). -/
def Sdhc.LineCurrent (d : Sdhc) : Prop := d.line = d.level

/-- A register's byte as stored: `NISTS` without its computed bit 15 (10_state.md R54). -/
def Sdhc.stored (d : Sdhc) (r : SdhcReg) (i : Nat) : Byte := if r = .nists then getByte d.nists i else d.regByte r i

/-- What storing `b` to byte `i` of a register leaves there, `old` being the byte before: plain (43_sdhc.md R260), read-only
(R261), the DMA bit masked (R283), write-1-to-clear with `NISTS[15]` excluded (R284). -/
def writtenByte (r : SdhcReg) (i : Nat) (old b : Byte) : Byte :=
  match r with
  | .sysaddr => b
  | .blksize => b
  | .blkcnt => b
  | .arg => b
  | .xfermode => if i = 0 then b &&& 0xFE#8 else b
  | .cmd => b
  | .resp => old
  | .bufdata => old
  | .prsnt => old
  | .hostctl => b
  | .pwrctl => b
  | .clkctl => b
  | .toctl => b
  | .swrst => b
  | .nists => old &&& ~~~(if i = 1 then b &&& 0x7F#8 else b)
  | .eists => old &&& ~~~b
  | .nisten => b
  | .eisten => b
  | .nisigen => b
  | .eisigen => b
  | .caps => old
  | .maxcur => old
  | .version => old

/-- An SDHC access that passes the range check, the mount gate and the hole policy (60_exceptions.md R379). -/
def SdhcOpen (s : State) (off n : Nat) : Prop :=
  off + n ≤ s.cfg.sdhcSize ∧ s.sdhc.mounted = true ∧ (coversHole off n = true → s.cfg.holeSdhc = .zero)

/-- `t` is `s` after an SDHC access that answered `r`: the line is recomputed and the PLIC told (43_sdhc.md R264, R285). -/
def SdhcAccess (touched : List Block) (r : Response) (s t : State) : Prop :=
  Answered (.sdhc :: .plic :: touched) r s t ∧ t.sdhc.line = t.sdhc.level ∧
  t.plic = s.plic.signalled s.cfg s.cfg.sdhcIrq s.sdhc.line t.sdhc.level

/-- `i` loads `n` bytes at SDHC offset `off`: the row of the register that owns the first byte, or the Bus access routed there
(30_encoding.md R131, R145). A first byte in a hole has no row. -/
def SdhcLoads (s : State) (off n : Nat) (i : Instr) : Prop :=
  (∃ r k, r ≠ SdhcReg.bufdata ∧ k < r.len ∧ off = r.lo + k ∧ i = r.ldInstr k n) ∨
  ∃ addr, s.route addr n = some (.sdhc, off) ∧ i = .busLoad addr n

/-- `i` stores the `n` low bytes of `v` at SDHC offset `off`. -/
def SdhcStores (s : State) (off n : Nat) (v : DWord) (i : Instr) : Prop :=
  (∃ r k, r ≠ SdhcReg.bufdata ∧ k < r.len ∧ off = r.lo + k ∧ i = r.stInstr k n v) ∨
  ∃ addr, s.route addr n = some (.sdhc, off) ∧ i = .busStore addr n v

/-- The accesses after which the SDHC recomputes its line: its stores and the `BUFDATA` loads (43_sdhc.md R285). -/
def SdhcRecomputes (s : State) (i : Instr) : Prop :=
  (i.frame.fmt = 1#8 ∧ i.frame.sel = 3#8) ∨ i = .sdhcBufdataLd ∨
  (∃ addr n v off, i = .busStore addr n v ∧ s.route addr n = some (.sdhc, off)) ∨
  ∃ addr, i = .busLoad addr 4 ∧ s.route addr 4 = some (.sdhc, 0x20)

/-- `e` is `d` after `end_of_block()`, `d` being the state with the last word moved; `logged` counts `CapacityExceeded`
(43_sdhc.md R278, R279). -/
def BlockEnded (d e : Sdhc) (logged : Nat) : Prop :=
  let count := if d.xfermode.getLsbD 1 then d.blkcnt - 1#16 else d.blkcnt
  let ready : Half := if d.xfer = .read then 0x0020#16 else 0x0010#16
  (d.xfermode.getLsbD 5 = false ∨ (d.xfermode.getLsbD 1 = true ∧ count = 0#16) →
    logged = 0 ∧
    e = { d with
      cursor := 0, blkcnt := count, xfer := .none, line := e.line
      prsnt := d.prsnt &&& ~~~(if d.xfer = .read then 0x00000B00#32 else 0x00000700#32)
      nists := (d.nists &&& ~~~ready) ||| (if d.nisten.getLsbD 1 then 0x0002#16 else 0#16) }) ∧
  (d.xfermode.getLsbD 5 = true → (d.xfermode.getLsbD 1 = true → count ≠ 0#16) →
    d.pos.toNat + 512 + 512 ≤ d.capacity.toNat →
    logged = 0 ∧
    e = { d with
      cursor := 0, blkcnt := count, pos := d.pos + 512#64, buf := e.buf, line := e.line
      prsnt := d.prsnt ||| (if d.xfer = .read then 0x00000800#32 else 0x00000400#32)
      nists := d.nists ||| ready } ∧
    (d.xfer = .read → ∀ j, j < 512 → readByte e.buf j = readByte d.image (d.pos.toNat + 512 + j)) ∧
    (∀ j, 512 ≤ j → readByte e.buf j = readByte d.buf j) ∧
    (d.xfer ≠ .read → e.buf = d.buf)) ∧
  (d.xfermode.getLsbD 5 = true → (d.xfermode.getLsbD 1 = true → count ≠ 0#16) →
    d.capacity.toNat < d.pos.toNat + 512 + 512 →
    logged = 1 ∧
    e = { d with
      cursor := 0, blkcnt := count, xfer := .none, line := e.line
      prsnt := d.prsnt &&& ~~~(if d.xfer = .read then 0x00000B00#32 else 0x00000700#32)
      nists := d.nists &&& ~~~ready })

/-! ### UART -/

/-- The register number's byte lies in the UART's range (30_encoding.md R140, 20_memory.md R101). -/
def InUart (s : State) (k : Nat) : Prop := k * 2 ^ s.cfg.uartRegShift + 1 ≤ s.cfg.uartSize

/-- `t` is `s` after a UART access that answered `r` and left the registers of `u`: `check_int()` has run (44_uart.md R340,
R350). -/
def UartAccess (u : Uart) (r : Response) (s t : State) : Prop :=
  Answered [.uart, .plic] r s t ∧
  t.uart = { u with line := (u.ier.getLsbD 0 && !u.rxq.isEmpty) || (s.cfg.uartThreIrq && u.ier.getLsbD 1) } ∧
  t.plic = s.plic.signalled s.cfg s.cfg.uartIrq s.uart.line t.uart.line

/-- The accesses after which the UART checks its line: its register accesses and `uart_poll` (44_uart.md R340, R350). -/
def UartChecks (s : State) (i : Instr) : Prop :=
  ((i.frame.fmt = 0#8 ∨ i.frame.fmt = 1#8) ∧ i.frame.sel = 4#8) ∨ i = .uartPoll ∨
  ∃ addr n off, (i = .busLoad addr n ∨ ∃ v, i = .busStore addr n v) ∧ s.route addr n = some (.uart, off)

/-- The bits that read 0 (10_state.md R72, R74). -/
structure Uart.Fixed (u : Uart) : Prop where
  ier : u.ier &&& 0xF0#8 = 0#8
  fcr : u.fcr &&& 0xFE#8 = 0#8

/-! ### Bus -/

/-- The ranges of two entries share no byte, and the first lies below the second. -/
def Mapping.below (m m' : Mapping) : Prop := m.base.toNat + m.size ≤ m'.base.toNat

/-- A `devmap` is ordered by base address, its ranges are not empty, end at or below `2^64` and are disjoint (10_state.md R22). -/
def MapOk (map : List Mapping) : Prop :=
  map.Pairwise Mapping.below ∧ ∀ m ∈ map, m.size ≠ 0 ∧ m.base.toNat + m.size ≤ 2 ^ 64

/-- Every Bus's `devmap` is in order. -/
def State.BusOk (s : State) : Prop := ∀ b, MapOk (s.devmap b)

/-! ### Memory -/

/-- Every array and byte memory is in canonical form, so that states that read the same are the same data. -/
structure State.Canonical (s : State) : Prop where
  priority : cellsWf 0#32 s.plic.priority = true
  enabled : cellsWf 0#1024 s.plic.enabled = true
  threshold : cellsWf 0#32 s.plic.threshold = true
  claimed : cellsWf 0#1024 s.plic.claimed = true
  irqOut : cellsWf false s.plic.irqOut = true
  mtimecmp : cellsWf s.cfg.clintMtimecmpInit s.clint.mtimecmp = true
  msip : cellsWf false s.clint.msip = true
  msipOut : cellsWf false s.clint.msipOut = true
  mtipOut : cellsWf false s.clint.mtipOut = true
  bus : cellsWf [] s.bus = true
  image : Memory.wf s.sdhc.image = true
  buf : Memory.wf s.sdhc.buf = true

/-! ### What a launch gives (70_reset_and_hazards.md R401, R402) -/

/-- A launch whose parameters are in range, with an image if it is mounted and a UART FIFO, and whose byte memories are in canonical form. -/
structure Launch.Ok (l : Launch) : Prop where
  cfg : l.cfg.valid = true
  mounted : l.cfg.sdhcMounted = true → l.image ≠ none
  fifo : l.rxq ≠ none
  image : Memory.wf (l.image.getD []) = true
  buf : Memory.wf l.buf = true

end Sys2Proof.Machine
end

