-- ==== Sys2Proof/Certificates/Slice0/Obligations.lean ====
section
/-! DEFINITION. The statements for the provers. Each formalises rules of spec/ about the transactions of the subsystem or about the
machine as a whole; OBLIGATIONS.json lists them with the rules they cite. -/

open Sys2Proof Sys2Proof.Machine

/-! ### Encoding and the step -/

/-- Transaction records written out by hand from the offset maps of 30_encoding.md: a priority store and a claim load (R134), a
`mtimecmp` store and a load of the high half of `mtime` (R136), a line-status load and a `DLL` store (R140), a command store and
a `BUFDATA` load (R145), a Bus load (R130) and `raise_irq(3, true)` (R133). The record's layout is the model's (log entry 3). -/
def Obligations.RecordsDecodeAsTheMapsSay : Prop :=
  decode [1, 1, 3, 0, 0x08, 0, 0, 0, 0, 0, 0, 0, 0x0D, 0, 0, 0, 0, 0, 0, 0, 0, 0, 0, 0, 0, 0, 0, 0] =
    .ok (.plicPrioritySt 2 0x0D#32) ∧
  decode [0, 1, 3, 0, 0x04, 0x10, 0x20, 0, 0, 0, 0, 0, 0, 0, 0, 0, 0, 0, 0, 0, 0, 0, 0, 0, 0, 0, 0, 0] = .ok (.plicClaimLd 1) ∧
  decode [1, 2, 7, 0, 0x08, 0x40, 0, 0, 0, 0, 0, 0, 6, 0, 0, 0, 0, 0, 0, 1, 0, 0, 0, 0, 0, 0, 0, 0] =
    .ok (.clintMtimecmpSt64 1 0x0100000000000006#64) ∧
  decode [0, 2, 3, 0, 0xFC, 0xBF, 0, 0, 0, 0, 0, 0, 0, 0, 0, 0, 0, 0, 0, 0, 0, 0, 0, 0, 0, 0, 0, 0] = .ok .clintMtimeLdHi ∧
  decode [0, 4, 0, 0, 5, 0, 0, 0, 0, 0, 0, 0, 0, 0, 0, 0, 0, 0, 0, 0, 0, 0, 0, 0, 0, 0, 0, 0] = .ok .uartLsrLd ∧
  decode [1, 4, 0, 1, 0, 0, 0, 0, 0, 0, 0, 0, 0x0C, 0, 0, 0, 0, 0, 0, 0, 0, 0, 0, 0, 0, 0, 0, 0] = .ok (.uartDllSt 0x0C#8) ∧
  decode [1, 3, 1, 0, 0x0E, 0, 0, 0, 0, 0, 0, 0, 0x00, 0x11, 0, 0, 0, 0, 0, 0, 0, 0, 0, 0, 0, 0, 0, 0] =
    .ok (.sdhcCmdSt 0 2 0x1100#64) ∧
  decode [0, 3, 3, 0, 0x20, 0, 0, 0, 0, 0, 0, 0, 0, 0, 0, 0, 0, 0, 0, 0, 0, 0, 0, 0, 0, 0, 0, 0] = .ok .sdhcBufdataLd ∧
  decode [0, 0, 3, 0, 0x04, 0x00, 0x20, 0x0C, 0, 0, 0, 0, 0, 0, 0, 0, 0, 0, 0, 0, 0, 0, 0, 0, 0, 0, 0, 0] =
    .ok (.busLoad 0x0C200004#64 4) ∧
  decode [2, 2, 0, 0, 3, 0, 0, 0, 0, 0, 0, 0, 1, 0, 0, 0, 0, 0, 0, 0, 0, 0, 0, 0, 0, 0, 0, 0] = .ok (.plicRaiseIrq 3 true)

/-- Decode and encode agree, for every well-formed transaction and every value of its operands. -/
def Obligations.DecodeOfEncodeIsTheTransaction : Prop := ∀ i : Instr, i.wf = true → decode (encode i) = .ok i

/-- Whatever record decodes is the one record of a well-formed transaction: no record has two readings, no operand is out of its
range, and no unused field is ignored. -/
def Obligations.DecodedRecordsAreEncodings : Prop :=
  ∀ (record : List Byte) (i : Instr), decode record = .ok i → i.wf = true ∧ encode i = record

/-- One step takes the oldest transaction of the queue and runs it (20_memory.md R106, R111); the host's `withFetchWord` places the
record it is given there. The queue is the model's (log entry 2). -/
def Obligations.StepRunsTheOldestTransaction : Prop :=
  (∀ (s : State) (i : Instr) (rest : List (List Byte)), i.wf = true → s.requests = encode i :: rest →
    step s = exec i { s with requests := rest }) ∧
  (∀ (s : State) (record : List Byte) (i : Instr) (rest : List (List Byte)), decode record = .ok i →
    s.requests = record :: rest → step s = exec i { s with requests := rest }) ∧
  (∀ (s : State) (nbits w : Nat) (i : Instr), decodeTableWord nbits w = some i → step (s.withFetchWord nbits w) = exec i s) ∧
  (∀ s : State, s.requests = [] → step s = .next s)

/-! ### Invariants that every step keeps -/

/-- 10_state.md R29: claims are exclusive, and every context's line is what `update()` would compute. -/
def Obligations.PlicInvariantsAreKept : Prop :=
  ∀ s t : State, step s = .next t →
    (s.plic.Exclusive s.cfg → t.plic.Exclusive t.cfg) ∧ (s.plic.LinesCurrent s.cfg → t.plic.LinesCurrent t.cfg)

/-- 10_state.md R23 to R27: a priority or threshold stays below `2^P`, and no bit is set for a source outside 1..N. -/
def Obligations.PlicFieldsStayInBounds : Prop :=
  ∀ s t : State, s.cfg.valid = true → s.plic.InBounds s.cfg → step s = .next t → t.plic.InBounds t.cfg

/-- 42_clint.md R237, R239: after every step `MSIP_out` and `MTIP_out` are the levels of the current state. -/
def Obligations.ClintOutputsStayCurrent : Prop :=
  ∀ s t : State, s.clint.OutputsCurrent s.cfg → step s = .next t → t.clint.OutputsCurrent t.cfg

/-- 43_sdhc.md R270, R288 laws 4 and 5, 10_state.md R36: the transfer state, the present-state bits, the cursor and the seek position
stay consistent; while a transfer runs, its block lies in the image, which holds because the capacity tests of R273 and R278 are exact
(log entry 18). -/
def Obligations.SdhcTransferStaysConsistent : Prop :=
  ∀ s t : State, s.sdhc.Consistent → step s = .next t → t.sdhc.Consistent

/-- The bits that no transaction changes: SDHC `XFERMODE[0]`, `RESP`, `PRSNT` but its four transfer bits, `SWRST`, the status bits
the model never sets, `EISTS`, `CAPS`, `MAXCUR`, `VERSION`, mount and capacity; UART `IER[7:4]` and the unkept `FCR` bits. And after
every step the SDHC's line is the level of its registers (43_sdhc.md R285, 10_state.md R37). That a port access to a disabled buffer
leaves the line alone is log entry 17. -/
def Obligations.FixedBitsAndSdhcLineAreKept : Prop :=
  ∀ s t : State, step s = .next t →
    (s.sdhc.Fixed s.cfg → t.sdhc.Fixed t.cfg) ∧ (s.uart.Fixed → t.uart.Fixed) ∧ (s.sdhc.LineCurrent → t.sdhc.LineCurrent)

/-- 10_state.md R22: every `devmap` stays ordered by base address with disjoint ranges, and once the simulation has started no step
changes it or stops the simulation. -/
def Obligations.BusMapStaysInOrder : Prop :=
  ∀ s t : State, step s = .next t →
    (s.BusOk → t.BusOk) ∧ (s.started = true → t.bus = s.bus ∧ t.started = true)

/-- Every array, the SD image and the transfer buffer keep their canonical form, and the configuration stays as it is. The canonical form
is the model's representation of the arrays and bytes of 10_state.md (log entries 9, 10, 22), and the configuration as a field of State is
log entry 1; the spec's rules say neither. -/
def Obligations.MemoryStaysCanonical : Prop :=
  ∀ s t : State, s.Canonical → step s = .next t → t.Canonical ∧ t.cfg = s.cfg

/-- From every launch whose parameters are in range (00_scope.md R5), with an image if it is mounted, a UART FIFO, and byte memories in
canonical form, construction builds a machine that meets every invariant; State.reset is such a machine. The launch it comes from is log
entry 1, that an SDHC which is not mounted needs no image log entry 13, the canonical form log entries 9, 10 and 22. -/
def Obligations.ConstructionMeetsTheInvariants : Prop :=
  (∀ l : Launch, l.Ok → ∃ s, State.construct l = .ok s ∧
    s.plic.Exclusive l.cfg ∧ s.plic.LinesCurrent l.cfg ∧ s.plic.InBounds l.cfg ∧ s.clint.OutputsCurrent l.cfg ∧
    s.sdhc.Consistent ∧ s.sdhc.Fixed l.cfg ∧ s.sdhc.LineCurrent ∧ s.uart.Fixed ∧ s.BusOk ∧ s.Canonical) ∧
  (∃ l : Launch, l.Ok ∧ State.construct l = .ok State.reset)

/-- 70_reset_and_hazards.md R401: the construction values of every machine that is built. (A launch with a construction error builds none,
60_exceptions.md R375.) -/
def Obligations.ConstructionState : Prop :=
  ∀ (l : Launch) (s : State), State.construct l = .ok s →
    s.cfg = l.cfg ∧
    (∀ k, s.plic.prio k = 0#32 ∧ s.plic.pending.getLsbD k = false) ∧
    (∀ c k, (s.plic.enabledOf c).getLsbD k = false ∧ (s.plic.claimedOf c).getLsbD k = false) ∧
    (∀ c, s.plic.thresh c = 0#32 ∧ s.plic.lineOf c = false) ∧
    s.clint.mtime = 0#64 ∧ s.clint.rtLast = 0#64 ∧
    (∀ h, s.clint.cmp l.cfg h = l.cfg.clintMtimecmpInit ∧ s.clint.msipOf h = false ∧ s.clint.msipOutOf h = false) ∧
    (∀ h, h < l.cfg.numHarts → s.clint.mtipOutOf h = decide (l.cfg.clintMtimecmpInit = 0#64)) ∧
    s.sdhc.sysaddr = 0#32 ∧ s.sdhc.blksize = 0#16 ∧ s.sdhc.blkcnt = 0#16 ∧ s.sdhc.arg = 0#32 ∧ s.sdhc.xfermode = 0#16 ∧
    s.sdhc.cmd = 0#16 ∧ s.sdhc.resp0 = 0#32 ∧ s.sdhc.resp1 = 0#32 ∧ s.sdhc.resp2 = 0#32 ∧ s.sdhc.resp3 = 0#32 ∧
    s.sdhc.prsnt = 0x00090000#32 ∧ s.sdhc.hostctl = 0#8 ∧ s.sdhc.pwrctl = 0#8 ∧ s.sdhc.clkctl = 0#16 ∧ s.sdhc.toctl = 0#8 ∧
    s.sdhc.swrst = 0#8 ∧ s.sdhc.nists = 0#16 ∧ s.sdhc.eists = 0#16 ∧ s.sdhc.nisten = 0#16 ∧ s.sdhc.eisten = 0#16 ∧
    s.sdhc.nisigen = 0#16 ∧ s.sdhc.eisigen = 0#16 ∧ s.sdhc.caps = l.cfg.sdhcCaps ∧ s.sdhc.maxcur = l.cfg.sdhcMaxcur ∧
    s.sdhc.version = l.cfg.sdhcVersion ∧ s.sdhc.pos = 0#64 ∧ s.sdhc.cursor = 0 ∧ s.sdhc.xfer = .none ∧ s.sdhc.line = false ∧
    s.sdhc.mounted = l.cfg.sdhcMounted ∧ s.sdhc.capacity = l.cfg.sdhcCapacity ∧
    (∀ image, l.image = some image → s.sdhc.image = image) ∧
    s.uart.ier = 0#8 ∧ s.uart.fcr = 0#8 ∧ s.uart.lcr = 0#8 ∧ s.uart.mcr = 0#8 ∧ s.uart.scr = 0#8 ∧ s.uart.dll = 0#8 ∧
    s.uart.dlm = 0#8 ∧ s.uart.psd = 0#8 ∧ s.uart.line = false ∧ l.rxq = some s.uart.rxq ∧ s.uart.txlog = [] ∧
    (∀ m, m ∈ s.devmap 0 ↔ m = ⟨l.cfg.plicBase, .plic, l.cfg.plicSize⟩ ∨ m = ⟨l.cfg.clintBase, .clint, l.cfg.clintSize⟩ ∨
      m = ⟨l.cfg.uartBase, .uart, l.cfg.uartSize⟩ ∨ m = ⟨l.cfg.sdhcBase, .sdhc, l.cfg.sdhcSize⟩) ∧
    s.counters = ⟨0, 0, 0⟩

/-! ### Rules of the whole machine -/

/-- 60_exceptions.md R370: a transaction that returns the failure changes no device state. (A draw may have been taken for an opaque
device's answer, log entry 8.) -/
def Obligations.FailedTransactionsChangeNothing : Prop :=
  ∀ (i : Instr) (s t : State), exec i s = .next t → t.resp = .failed → Unchanged [.draws] s t

/-- 60_exceptions.md R375, 70_reset_and_hazards.md R402: construction builds a machine exactly from a launch whose parameters and ranges are
acceptable, whose image, if it is to be mounted, exists, and whose UART FIFO opens; a launch with an empty range or with two ranges that share a byte builds none; and after construction only
`add_device` before the start of the simulation stops the machine with an error. That these errors are the model's faults, and that an SDHC
which is not mounted needs no image, is log entry 13. -/
def Obligations.FaultsOnlyAtConstruction : Prop :=
  (∀ l : Launch, (∃ s, State.construct l = .ok s) ↔
    l.cfg.valid = true ∧ (l.cfg.sdhcMounted = true → l.image ≠ none) ∧ l.rxq ≠ none) ∧
  (∀ l : Launch, l.cfg.plicSize = 0 ∨ l.cfg.clintSize = 0 ∨ l.cfg.uartSize = 0 ∨ l.cfg.sdhcSize = 0 →
    ∃ f, State.construct l = .error f) ∧
  (∀ (l : Launch) (a : Nat) (p q : Nat × Nat),
    [p, q].Sublist [(l.cfg.plicBase.toNat, l.cfg.plicSize), (l.cfg.clintBase.toNat, l.cfg.clintSize),
      (l.cfg.uartBase.toNat, l.cfg.uartSize), (l.cfg.sdhcBase.toNat, l.cfg.sdhcSize)] →
    p.1 ≤ a → a < p.1 + p.2 → q.1 ≤ a → a < q.1 + q.2 → ∃ f, State.construct l = .error f) ∧
  (∀ (i : Instr) (s : State) (f : Fault), exec i s = .fault f →
    s.started = false ∧ ∃ on base d, i = .busAddDevice on base d) ∧
  (∀ (s : State) (f : Fault), s.started = true → step s ≠ .fault f)

/-- 43_sdhc.md R280, 10_state.md R35: a byte of the image changes only when the last word of a write block arrives through `BUFDATA`,
and only inside the block at the seek position. -/
def Obligations.ImageChangesOnlyByWriteBack : Prop :=
  ∀ (i : Instr) (s t : State) (a : Nat), i.wf = true → exec i s = .next t → readByte t.sdhc.image a ≠ readByte s.sdhc.image a →
    s.sdhc.xfer = .write ∧ s.sdhc.cursor + 4 = 512 ∧ s.sdhc.pos.toNat ≤ a ∧ a < s.sdhc.pos.toNat + 512 ∧
    ((∃ v, i = .sdhcBufdataSt v) ∨ ∃ addr v, i = .busStore addr 4 v ∧ s.route addr 4 = some (.sdhc, 0x20))

/-- 10_state.md R27, 41_plic.md R198 law 2: a claim ends only by that context's `complete` or by `raise_irq(k, false)`, and the UART and the
SDHC make that call for their own source only when one of their accesses lets their line fall (44_uart.md R350, 43_sdhc.md R285). -/
def Obligations.ClaimEndsOnlyByCompleteOrDeassertion : Prop :=
  ∀ (i : Instr) (s t : State) (c k : Nat), i.wf = true → exec i s = .next t → c < s.cfg.plicNumContexts →
    (s.plic.claimedOf c).getLsbD k = true → (t.plic.claimedOf c).getLsbD k = false →
    (∃ v, i = .plicCompleteSt c v ∧ v.toNat = k) ∨
    (∃ addr v, i = .busStore addr 4 v ∧ s.route addr 4 = some (.plic, (PlicSlot.claim c).offset) ∧ v.toNat % 2 ^ 32 = k) ∨
    i = .plicRaiseIrq k false ∨
    (k = s.cfg.uartIrq ∧ UartChecks s i ∧ s.uart.line = true ∧ t.uart.line = false) ∨
    (k = s.cfg.sdhcIrq ∧ SdhcRecomputes s i ∧ s.sdhc.line = true ∧ t.sdhc.line = false)

/-- 44_uart.md R352 law 4, R342, R351: no step takes back a transmitted byte, and received bytes leave the queue one at a time from its
head. -/
def Obligations.UartQueuesMoveInOrder : Prop :=
  ∀ s t : State, step s = .next t →
    (∃ sent, t.uart.txlog = s.uart.txlog ++ sent ∧ sent.length ≤ 1) ∧
    (t.uart.rxq = s.uart.rxq ∨ t.uart.rxq = s.uart.rxq.tail ∨ ∃ bytes, t.uart.rxq = s.uart.rxq ++ bytes)

/-- 42_clint.md R231, R236, R241: in tick mode with `mtime` not writable, only `increment` moves `mtime`; the last real-time value never
goes back. -/
def Obligations.TimeMovesOnlyByTicks : Prop :=
  ∀ (i : Instr) (s t : State), exec i s = .next t →
    (s.cfg.clintRealtime = false → s.cfg.clintMtimeWritable = false → (∀ d, i ≠ .clintIncrement d) →
      t.clint.mtime = s.clint.mtime) ∧
    s.clint.rtLast.toNat ≤ t.clint.rtLast.toNat

/-! ### Bus -/

/-- 40_bus.md R162: resolution finds the one entry that holds the whole access, with the offset in it; an access that no entry holds,
or past `2^64`, resolves to nothing. -/
def Obligations.ResolutionFindsTheOneOwner : Prop :=
  ∀ (map : List Mapping) (addr n : Nat), MapOk map → 1 ≤ n →
    (∀ m ∈ map, m.base.toNat ≤ addr → addr + n ≤ m.base.toNat + m.size →
      resolve map addr n = some (m.dev, addr - m.base.toNat)) ∧
    ((∀ m ∈ map, ¬(m.base.toNat ≤ addr ∧ addr + n ≤ m.base.toNat + m.size)) → resolve map addr n = none) ∧
    (2 ^ 64 < addr + n → resolve map addr n = none)

/-- 30_encoding.md R131, R134, R136, R140, R145: an access through the Bus to a device's register is that register's row, with the local
offset. -/
def Obligations.BusAccessesAreRows : Prop :=
  ∀ (s : State) (addr : DWord) (off : Nat) (v : DWord),
    (s.route addr 4 = some (.plic, off) → off % 4 = 0 →
      (∀ i, plicLoadRow (plicSlot off) = some i → exec (.busLoad addr 4) s = exec i s) ∧
      (∀ i, plicStoreRow (v.setWidth 32) (plicSlot off) = some i → exec (.busStore addr 4 v) s = exec i s)) ∧
    (∀ n, n = 4 ∨ n = 8 → s.route addr n = some (.clint, off) →
      (∀ i, clintLoadRow (clintSlot s.cfg.numHarts off n) = some i → exec (.busLoad addr n) s = exec i s) ∧
      (∀ i, clintStoreRow v (clintSlot s.cfg.numHarts off n) = some i → exec (.busStore addr n v) s = exec i s)) ∧
    (∀ k, k ≤ 7 → off = k * 2 ^ s.cfg.uartRegShift → s.route addr 1 = some (.uart, off) →
      (∀ i, (uartLoadReg s.uart.dlab k).bind uartLoadRow = some i → exec (.busLoad addr 1) s = exec i s) ∧
      (∀ i, (uartStoreReg s.uart.dlab k).bind (uartStoreRow (v.setWidth 8)) = some i →
        exec (.busStore addr 1 v) s = exec i s)) ∧
    (∀ r i n, n = 1 ∨ n = 2 ∨ n = 4 ∨ n = 8 → i < SdhcReg.len r → off = r.lo + i → (r = .bufdata → i = 0 ∧ n = 4) →
      s.route addr n = some (.sdhc, off) →
      exec (.busLoad addr n) s = exec (r.ldInstr i n) s ∧ exec (.busStore addr n v) s = exec (r.stInstr i n v) s)

/-- 40_bus.md R163, R168: a Bus load of an admitted length and shape completes, with the device's value of `n` bytes: in the PLIC, the
CLINT, the UART, and in the SDHC outside `BUFDATA`; a hole gives a value under `HOLE_POLICY = zero`. A load of an opaque device (R167) answers
what the free value of that draw says: the low `n` bytes of some value, the failure or a refusal; it takes one draw and changes no other
state (log entry 8). -/
def Obligations.BusLoadCompletes : Prop :=
  (∀ (s : State) (addr : DWord) (n off : Nat),
    ((s.route addr n = some (.plic, off) ∧ n = 4 ∧ off % 4 = 0 ∧ off + n ≤ s.cfg.plicSize ∧ s.cfg.holePlic = .zero) ∨
     (s.route addr n = some (.clint, off) ∧ ((n = 4 ∧ off % 4 = 0) ∨ (n = 8 ∧ off % 8 = 0 ∧ 0x4000 ≤ off)) ∧
      off + n ≤ s.cfg.clintSize ∧ s.cfg.holeClint = .zero) ∨
     (s.route addr n = some (.uart, off) ∧ n = 1 ∧ off + n ≤ s.cfg.uartSize ∧ s.cfg.holeUart = .zero) ∨
     (s.route addr n = some (.sdhc, off) ∧ (n = 1 ∨ n = 2 ∨ n = 4 ∨ n = 8) ∧ (off + n ≤ 0x20 ∨ 0x24 ≤ off) ∧
      SdhcOpen s off n)) →
    ∃ t v, exec (.busLoad addr n) s = .next t ∧ t.resp = .loaded n v ∧ v.toNat < 2 ^ (8 * n) ∧ t.started = true ∧
      t.cfg = s.cfg ∧ t.requests = s.requests ∧ t.bus = s.bus ∧ t.counters = s.counters ∧ t.sdhc = s.sdhc) ∧
  (∀ (s : State) (addr : DWord) (n id size off : Nat), n = 1 ∨ n = 2 ∨ n = 4 ∨ n = 8 →
    s.route addr n = some (.other id size, off) →
    match Config.otherLoad id off n s.draws with
    | .ok v => ∃ t, exec (.busLoad addr n) s = .next t ∧ t.draws = s.draws + 1 ∧
        Answered [.draws] (.loaded n (BitVec.ofNat 64 (v.toNat % 2 ^ (8 * n)))) s t
    | .fail => ∃ t, exec (.busLoad addr n) s = .next t ∧ t.draws = s.draws + 1 ∧ Answered [.draws] .failed s t
    | .refuse => exec (.busLoad addr n) s = .refused .otherDevice)

/-- 40_bus.md R164, R168: a Bus store of an admitted length and shape completes with `Ok`: in the PLIC, the CLINT, the UART, and in the
SDHC outside `BUFDATA` and the command byte; a hole ignores it under `HOLE_POLICY = zero`. A store to an opaque device (R167) hands it the
low `n` bytes of `v` and answers what the free value of that draw says: success, the failure or a refusal; it takes one draw and changes
no other state (log entry 8). -/
def Obligations.BusStoreCompletes : Prop :=
  (∀ (s : State) (addr : DWord) (n off : Nat) (v : DWord),
    ((s.route addr n = some (.plic, off) ∧ n = 4 ∧ off % 4 = 0 ∧ off + n ≤ s.cfg.plicSize ∧ s.cfg.holePlic = .zero) ∨
     (s.route addr n = some (.clint, off) ∧ ((n = 4 ∧ off % 4 = 0) ∨ (n = 8 ∧ off % 8 = 0 ∧ 0x4000 ≤ off)) ∧
      off + n ≤ s.cfg.clintSize ∧ s.cfg.holeClint = .zero) ∨
     (s.route addr n = some (.uart, off) ∧ n = 1 ∧ off + n ≤ s.cfg.uartSize ∧ s.cfg.holeUart = .zero) ∨
     (s.route addr n = some (.sdhc, off) ∧ (n = 1 ∨ n = 2 ∨ n = 4 ∨ n = 8) ∧ (off + n ≤ 0x20 ∨ 0x24 ≤ off) ∧
      covers off n 0x0F = false ∧ SdhcOpen s off n)) →
    ∃ t, exec (.busStore addr n v) s = .next t ∧ t.resp = .ok ∧ t.started = true ∧
      t.cfg = s.cfg ∧ t.requests = s.requests ∧ t.bus = s.bus ∧ t.counters = s.counters ∧
      (∀ a, readByte t.sdhc.image a = readByte s.sdhc.image a) ∧ (∀ a, readByte t.sdhc.buf a = readByte s.sdhc.buf a)) ∧
  (∀ (s : State) (addr : DWord) (n id size off : Nat) (v : DWord), n = 1 ∨ n = 2 ∨ n = 4 ∨ n = 8 →
    s.route addr n = some (.other id size, off) →
    match Config.otherStore id off n (BitVec.ofNat 64 (v.toNat % 2 ^ (8 * n))) s.draws with
    | .ok => ∃ t, exec (.busStore addr n v) s = .next t ∧ t.draws = s.draws + 1 ∧ Answered [.draws] .ok s t
    | .fail => ∃ t, exec (.busStore addr n v) s = .next t ∧ t.draws = s.draws + 1 ∧ Answered [.draws] .failed s t
    | .refuse => exec (.busStore addr n v) s = .refused .otherDevice)

/-- 20_memory.md R104, 40_bus.md R162 to R164, 60_exceptions.md R379: a length outside 1, 2, 4, 8 is refused before anything else; an
access no device holds answers the failure and changes nothing. -/
def Obligations.BadLengthsAreRefusedAndUnmappedAccessesFail : Prop :=
  ∀ (s : State) (addr : DWord) (n : Nat) (v : DWord),
    (n ≠ 1 → n ≠ 2 → n ≠ 4 → n ≠ 8 →
      exec (.busLoad addr n) s = .refused .badLength ∧ exec (.busStore addr n v) s = .refused .badLength) ∧
    (n = 1 ∨ n = 2 ∨ n = 4 ∨ n = 8 →
      2 ^ 64 < addr.toNat + n ∨ (∀ m ∈ s.devmap 0, ¬(m.base.toNat ≤ addr.toNat ∧ addr.toNat + n ≤ m.base.toNat + m.size)) →
      (∃ t, exec (.busLoad addr n) s = .next t ∧ Answered [] .failed s t) ∧
      (∃ t, exec (.busStore addr n v) s = .next t ∧ Answered [] .failed s t))

/-- 20_memory.md R105, 60_exceptions.md R379: a width or alignment the device does not admit is refused, after the range and the mount
gate. -/
def Obligations.WidthsTheDeviceDoesNotAdmitAreRefused : Prop :=
  ∀ (s : State) (addr : DWord) (n off : Nat) (v : DWord), n = 1 ∨ n = 2 ∨ n = 4 ∨ n = 8 →
    ((s.route addr n = some (.plic, off) ∧ ¬(n = 4 ∧ off % 4 = 0)) ∨
     (s.route addr n = some (.clint, off) ∧ ¬(n = 4 ∧ off % 4 = 0) ∧ ¬(n = 8 ∧ off % 8 = 0)) ∨
     (s.route addr n = some (.clint, off) ∧ n = 8 ∧ off % 8 = 0 ∧ off < 0x4000 ∧ off / 4 < s.cfg.numHarts) ∨
     (s.route addr n = some (.uart, off) ∧ n ≠ 1) ∨
     (s.route addr n = some (.sdhc, off) ∧ off + n ≤ s.cfg.sdhcSize ∧ s.sdhc.mounted = true ∧ off < 0x24 ∧ 0x20 < off + n ∧
      ¬(off = 0x20 ∧ n = 4))) →
    exec (.busLoad addr n) s = .refused .implDefinedWidth ∧ exec (.busStore addr n v) s = .refused .implDefinedWidth

/-- 40_bus.md R161: `add_device` before the simulation starts; after the start it is refused. The flag that says whether it has started is
log entry 12, the fatal errors as faults log entry 13, and the operand that names the Bus log entry 14. -/
def Obligations.AddDeviceExtendsTheMap : Prop :=
  ∀ (s : State) (on : Nat) (base : DWord) (d : Device),
    (s.started = true → exec (.busAddDevice on base d) s = .refused .addDeviceAfterStart) ∧
    (s.started = false → deviceSize s.cfg d = 0 ∨ 2 ^ 64 < base.toNat + deviceSize s.cfg d →
      exec (.busAddDevice on base d) s = .fault .constructionBadRange) ∧
    (s.started = false → deviceSize s.cfg d ≠ 0 → base.toNat + deviceSize s.cfg d ≤ 2 ^ 64 →
      (∃ m ∈ s.devmap on, ∃ a, base.toNat ≤ a ∧ a < base.toNat + deviceSize s.cfg d ∧
        m.base.toNat ≤ a ∧ a < m.base.toNat + m.size) →
      exec (.busAddDevice on base d) s = .fault .constructionOverlap) ∧
    (s.started = false → deviceSize s.cfg d ≠ 0 → base.toNat + deviceSize s.cfg d ≤ 2 ^ 64 →
      (∀ m ∈ s.devmap on, m.size ≠ 0 ∧ ∀ a, base.toNat ≤ a → a < base.toNat + deviceSize s.cfg d →
        ¬(m.base.toNat ≤ a ∧ a < m.base.toNat + m.size)) →
      ∃ t, exec (.busAddDevice on base d) s = .next t ∧ t.resp = .ok ∧ t.started = false ∧ Unchanged [.bus] s t ∧
        (∀ m, m ∈ t.devmap on ↔ m = ⟨base, d, deviceSize s.cfg d⟩ ∨ m ∈ s.devmap on) ∧
        (∀ b, b ≠ on → t.devmap b = s.devmap b) ∧ (MapOk (s.devmap on) → MapOk (t.devmap on)))

/-- 40_bus.md R165: `find_device` names the owner of every byte inside a range, none for a byte outside every range, and writes no state
but its answer. -/
def Obligations.FindDeviceNamesTheOwner : Prop :=
  ∀ (s : State) (addr : DWord), MapOk (s.devmap 0) →
    ∃ t owner, exec (.busFindDevice addr) s = .next t ∧ t = { s with resp := .found owner } ∧
      (∀ m ∈ s.devmap 0, m.base.toNat ≤ addr.toNat → addr.toNat < m.base.toNat + m.size →
        owner = some (m.dev, addr.toNat - m.base.toNat)) ∧
      ((∀ m ∈ s.devmap 0, ¬(m.base.toNat ≤ addr.toNat ∧ addr.toNat < m.base.toNat + m.size)) → owner = none)

/-- 40_bus.md R166: through a nested Bus the translation composes. The numbers of nested Buses are the model's (log entry 14). -/
def Obligations.NestedBusTranslationsCompose : Prop :=
  ∀ (s : State) (addr : DWord) (n : Nat) (m m' : Mapping) (id size : Nat), MapOk (s.devmap 0) → MapOk (s.devmap id) → 1 ≤ n →
    m ∈ s.devmap 0 → m.dev = .bus id size → m.base.toNat ≤ addr.toNat → addr.toNat + n ≤ m.base.toNat + m.size →
    m' ∈ s.devmap id → (∀ j k, m'.dev ≠ .bus j k) → m'.base.toNat ≤ addr.toNat - m.base.toNat →
    addr.toNat - m.base.toNat + n ≤ m'.base.toNat + m'.size →
    s.route addr n = some (m'.dev, addr.toNat - m.base.toNat - m'.base.toNat)

/-- 20_memory.md R113, R114: an atomic access or a fetch aimed at one of the four devices is refused by name; aimed at no device it is
unmapped (log entry 19). -/
def Obligations.AtomicsAndFetchesAreNotForDevices : Prop :=
  ∀ (s : State) (addr : DWord) (n : Nat) (d : Device) (off : Nat), n = 1 ∨ n = 2 ∨ n = 4 ∨ n = 8 →
    d = .plic ∨ d = .clint ∨ d = .uart ∨ d = .sdhc →
    ((∀ record, decode record = .error (.atomic addr n) → ∀ rest, s.requests = record :: rest →
      (s.route addr n = some (d, off) → step s = .refused .noAtomicMmio) ∧
      (s.route addr n = none → ∃ t, step s = .next t ∧ Answered [] .failed { s with requests := rest } t)) ∧
     (∀ record, decode record = .error (.fetch addr n) → ∀ rest, s.requests = record :: rest →
      (s.route addr n = some (d, off) → step s = .refused .fetchFromDevice) ∧
      (s.route addr n = none → ∃ t, step s = .next t ∧ Answered [] .failed { s with requests := rest } t)))

/-- 30_encoding.md R150, 41_plic.md R187, 42_clint.md R238, 43_sdhc.md R262, 44_uart.md R349: a hole follows its device's policy and changes
nothing. -/
def Obligations.HolesFollowTheirPolicy : Prop :=
  ∀ (s : State) (addr : DWord) (n off : Nat) (v : DWord) (p : HolePolicy),
    ((s.route addr n = some (.plic, off) ∧ n = 4 ∧ off % 4 = 0 ∧ plicSlot off = .hole ∧ p = s.cfg.holePlic) ∨
     (s.route addr n = some (.clint, off) ∧ (n = 4 ∨ n = 8) ∧ clintSlot s.cfg.numHarts off n = .hole ∧ p = s.cfg.holeClint) ∨
     (s.route addr n = some (.uart, off) ∧ n = 1 ∧ uartIndex s.cfg.uartRegShift off = none ∧ p = s.cfg.holeUart) ∨
     (s.route addr n = some (.sdhc, off) ∧ (n = 1 ∨ n = 2 ∨ n = 4 ∨ n = 8) ∧ off + n ≤ s.cfg.sdhcSize ∧
      s.sdhc.mounted = true ∧ (off + n ≤ 0x20 ∨ 0x24 ≤ off) ∧ coversHole off n = true ∧ p = s.cfg.holeSdhc ∧ p = .fail)) →
    (∃ t, exec (.busLoad addr n) s = .next t ∧ Answered [] (holeLoadAnswer n p) s t) ∧
    (∃ t, exec (.busStore addr n v) s = .next t ∧ Answered [] (holeStoreAnswer p) s t)

/-- 20_memory.md R101, 40_bus.md R162: a row of the table whose register lies outside its device's local space answers the failure (log
entry 15). The device, offset and length are the ones of the row's record. -/
def Obligations.RowsOutsideTheDeviceFail : Prop :=
  ∀ (s : State) (i : Instr), i.wf = true → i.frame.fmt = 0#8 ∨ i.frame.fmt = 1#8 →
    ((i.frame.sel = 1#8 ∧ s.cfg.plicSize < i.frame.a.toNat + i.frame.len.toNat + 1) ∨
     (i.frame.sel = 2#8 ∧ s.cfg.clintSize < i.frame.a.toNat + i.frame.len.toNat + 1) ∨
     (i.frame.sel = 3#8 ∧ s.cfg.sdhcSize < i.frame.a.toNat + i.frame.len.toNat + 1) ∨
     (i.frame.sel = 4#8 ∧ s.cfg.uartSize < i.frame.a.toNat * 2 ^ s.cfg.uartRegShift + 1)) →
    ∃ t, exec i s = .next t ∧ Answered [] .failed s t

/-! ### PLIC -/

/-- 41_plic.md R181: the priority registers. -/
def Obligations.PriorityRegisters : Prop :=
  ∀ (s : State) (k : Nat) (v : Word), (PlicSlot.priority k).offset + 4 ≤ s.cfg.plicSize →
    (k = 0 →
      (∃ t, exec (.plicPriorityLd k) s = .next t ∧ Answered [] (.loaded 4 0#64) s t) ∧
      (∃ t, exec (.plicPrioritySt k v) s = .next t ∧ Answered [] .ok s t)) ∧
    (1 ≤ k → k ≤ s.cfg.plicNumSources →
      (∃ t, exec (.plicPriorityLd k) s = .next t ∧ Answered [] (.loaded 4 ((s.plic.prio k).setWidth 64)) s t) ∧
      (∃ t, exec (.plicPrioritySt k v) s = .next t ∧ Answered [.plic] .ok s t ∧
        (∀ j, (t.plic.prio j).toNat = if j = k then v.toNat % 2 ^ s.cfg.plicPrioBits else (s.plic.prio j).toNat) ∧
        t.plic.LinesCurrent s.cfg ∧ t.plic.pending = s.plic.pending ∧ t.plic.enabled = s.plic.enabled ∧
        t.plic.threshold = s.plic.threshold ∧ t.plic.claimed = s.plic.claimed)) ∧
    (s.cfg.plicNumSources < k →
      (∃ t, exec (.plicPriorityLd k) s = .next t ∧ Answered [] (holeLoadAnswer 4 s.cfg.holePlic) s t) ∧
      (∃ t, exec (.plicPrioritySt k v) s = .next t ∧ Answered [] (holeStoreAnswer s.cfg.holePlic) s t))

/-- 41_plic.md R182: the pending words. -/
def Obligations.PendingWords : Prop :=
  ∀ (s : State) (w : Nat) (v : Word), (PlicSlot.pending w).offset + 4 ≤ s.cfg.plicSize → s.cfg.plicNumSources ≤ 1023 →
    (32 * w ≤ s.cfg.plicNumSources →
      (∃ t r, exec (.plicPendingLd w) s = .next t ∧ Answered [] (.loaded 4 r) s t ∧
        ∀ b, r.getLsbD b = (decide (b < 32) && decide (IsSource s.cfg (32 * w + b)) && s.plic.pending.getLsbD (32 * w + b))) ∧
      (∃ t, exec (.plicPendingSt w v) s = .next t ∧ Answered [] .ok s t)) ∧
    (s.cfg.plicNumSources < 32 * w →
      (∃ t, exec (.plicPendingLd w) s = .next t ∧ Answered [] (holeLoadAnswer 4 s.cfg.holePlic) s t) ∧
      (∃ t, exec (.plicPendingSt w v) s = .next t ∧ Answered [] (holeStoreAnswer s.cfg.holePlic) s t))

/-- 41_plic.md R183: the enable words. -/
def Obligations.EnableWords : Prop :=
  ∀ (s : State) (c w : Nat) (v : Word), (PlicSlot.enable c w).offset + 4 ≤ s.cfg.plicSize → s.cfg.plicNumSources ≤ 1023 →
    (c < s.cfg.plicNumContexts → 32 * w ≤ s.cfg.plicNumSources →
      (∃ t r, exec (.plicEnableLd c w) s = .next t ∧ Answered [] (.loaded 4 r) s t ∧
        ∀ b, r.getLsbD b =
          (decide (b < 32) && decide (IsSource s.cfg (32 * w + b)) && (s.plic.enabledOf c).getLsbD (32 * w + b))) ∧
      (∃ t, exec (.plicEnableSt c w v) s = .next t ∧ Answered [.plic] .ok s t ∧
        (∀ c' k, (t.plic.enabledOf c').getLsbD k =
          if c' = c ∧ k / 32 = w ∧ IsSource s.cfg k then v.getLsbD (k % 32) else (s.plic.enabledOf c').getLsbD k) ∧
        t.plic.LinesCurrent s.cfg ∧ t.plic.pending = s.plic.pending ∧ t.plic.priority = s.plic.priority ∧
        t.plic.threshold = s.plic.threshold ∧ t.plic.claimed = s.plic.claimed)) ∧
    (s.cfg.plicNumContexts ≤ c ∨ s.cfg.plicNumSources < 32 * w →
      (∃ t, exec (.plicEnableLd c w) s = .next t ∧ Answered [] (holeLoadAnswer 4 s.cfg.holePlic) s t) ∧
      (∃ t, exec (.plicEnableSt c w v) s = .next t ∧ Answered [] (holeStoreAnswer s.cfg.holePlic) s t))

/-- 41_plic.md R184: the threshold registers. -/
def Obligations.ThresholdRegisters : Prop :=
  ∀ (s : State) (c : Nat) (v : Word), (PlicSlot.threshold c).offset + 4 ≤ s.cfg.plicSize →
    (c < s.cfg.plicNumContexts →
      (∃ t, exec (.plicThresholdLd c) s = .next t ∧ Answered [] (.loaded 4 ((s.plic.thresh c).setWidth 64)) s t) ∧
      (∃ t, exec (.plicThresholdSt c v) s = .next t ∧ Answered [.plic] .ok s t ∧
        (∀ j, (t.plic.thresh j).toNat = if j = c then v.toNat % 2 ^ s.cfg.plicPrioBits else (s.plic.thresh j).toNat) ∧
        t.plic.LinesCurrent s.cfg ∧ t.plic.pending = s.plic.pending ∧ t.plic.enabled = s.plic.enabled ∧
        t.plic.priority = s.plic.priority ∧ t.plic.claimed = s.plic.claimed)) ∧
    (s.cfg.plicNumContexts ≤ c →
      (∃ t, exec (.plicThresholdLd c) s = .next t ∧ Answered [] (holeLoadAnswer 4 s.cfg.holePlic) s t) ∧
      (∃ t, exec (.plicThresholdSt c v) s = .next t ∧ Answered [] (holeStoreAnswer s.cfg.holePlic) s t))

/-- 41_plic.md R185, R193, R198 law 1: `claim(c)` takes the eligible source of the highest priority, the lowest number among equals, and
marks it claimed and not pending; with none eligible it returns 0 and changes nothing. -/
def Obligations.ClaimTakesTheBestEligibleSource : Prop :=
  ∀ (s : State) (c : Nat), (PlicSlot.claim c).offset + 4 ≤ s.cfg.plicSize →
    (c < s.cfg.plicNumContexts → (∀ k, IsSource s.cfg k → ¬ s.plic.Eligible s.cfg c k) →
      ∃ t, exec (.plicClaimLd c) s = .next t ∧ Answered [] (.loaded 4 0#64) s t) ∧
    (c < s.cfg.plicNumContexts → (∃ k, IsSource s.cfg k ∧ s.plic.Eligible s.cfg c k) →
      ∃ t k, exec (.plicClaimLd c) s = .next t ∧ Answered [.plic] (.loaded 4 (BitVec.ofNat 64 k)) s t ∧
        IsSource s.cfg k ∧ s.plic.Eligible s.cfg c k ∧
        (∀ j, IsSource s.cfg j → s.plic.Eligible s.cfg c j →
          (s.plic.prio j).toNat < (s.plic.prio k).toNat ∨ (s.plic.prio j = s.plic.prio k ∧ k ≤ j)) ∧
        (∀ c' j, (t.plic.claimedOf c').getLsbD j = (decide (c' = c ∧ j = k) || (s.plic.claimedOf c').getLsbD j)) ∧
        (∀ j, t.plic.pending.getLsbD j = (s.plic.pending.getLsbD j && decide (j ≠ k))) ∧
        t.plic.LinesCurrent s.cfg ∧ t.plic.priority = s.plic.priority ∧ t.plic.enabled = s.plic.enabled ∧
        t.plic.threshold = s.plic.threshold) ∧
    (s.cfg.plicNumContexts ≤ c →
      ∃ t, exec (.plicClaimLd c) s = .next t ∧ Answered [] (holeLoadAnswer 4 s.cfg.holePlic) s t)

/-- 41_plic.md R186, R194: `complete(c, v)` releases the claim of that context on that source and nothing else; any other value is
ignored. -/
def Obligations.CompleteReleasesTheClaim : Prop :=
  ∀ (s : State) (c : Nat) (v : Word), (PlicSlot.claim c).offset + 4 ≤ s.cfg.plicSize →
    (c < s.cfg.plicNumContexts → IsSource s.cfg v.toNat → (s.plic.claimedOf c).getLsbD v.toNat = true →
      ∃ t, exec (.plicCompleteSt c v) s = .next t ∧ Answered [.plic] .ok s t ∧
        (∀ c' j, (t.plic.claimedOf c').getLsbD j = ((s.plic.claimedOf c').getLsbD j && decide (¬(c' = c ∧ j = v.toNat)))) ∧
        t.plic.LinesCurrent s.cfg ∧ t.plic.pending = s.plic.pending ∧ t.plic.priority = s.plic.priority ∧
        t.plic.enabled = s.plic.enabled ∧ t.plic.threshold = s.plic.threshold) ∧
    (c < s.cfg.plicNumContexts → ¬(IsSource s.cfg v.toNat ∧ (s.plic.claimedOf c).getLsbD v.toNat = true) →
      ∃ t, exec (.plicCompleteSt c v) s = .next t ∧ Answered [] .ok s t) ∧
    (s.cfg.plicNumContexts ≤ c →
      ∃ t, exec (.plicCompleteSt c v) s = .next t ∧ Answered [] (holeStoreAnswer s.cfg.holePlic) s t)

/-- 41_plic.md R190, R198 law 3: `raise_irq`. -/
def Obligations.RaiseIrqSetsOrWithdrawsTheSource : Prop :=
  ∀ (s : State) (k : Nat), s.cfg.plicNumSources ≤ 1023 →
    (1 ≤ k → k ≤ s.cfg.plicNumSources →
      (∃ t, exec (.plicRaiseIrq k true) s = .next t ∧ Answered [.plic] .ok s t ∧
        (∀ j, t.plic.pending.getLsbD j = (s.plic.pending.getLsbD j || decide (j = k))) ∧
        t.plic.claimed = s.plic.claimed ∧ t.plic.LinesCurrent s.cfg ∧ t.plic.priority = s.plic.priority ∧
        t.plic.enabled = s.plic.enabled ∧ t.plic.threshold = s.plic.threshold) ∧
      (∃ t, exec (.plicRaiseIrq k false) s = .next t ∧ Answered [.plic] .ok s t ∧
        (∀ j, t.plic.pending.getLsbD j = (s.plic.pending.getLsbD j && decide (j ≠ k))) ∧
        (∀ c j, (t.plic.claimedOf c).getLsbD j =
          ((s.plic.claimedOf c).getLsbD j && decide (¬(c < s.cfg.plicNumContexts ∧ j = k)))) ∧
        t.plic.LinesCurrent s.cfg ∧ t.plic.priority = s.plic.priority ∧ t.plic.enabled = s.plic.enabled ∧
        t.plic.threshold = s.plic.threshold)) ∧
    (k = 0 ∨ s.cfg.plicNumSources < k → ∀ l, exec (.plicRaiseIrq k l) s = .refused .badSource)

/-- 41_plic.md R191: `update()` sets each context's line exactly when some source is eligible for it: pending, enabled, claimed by none,
and of a priority strictly above the threshold, so never of priority 0. -/
def Obligations.UpdateComputesEligibility : Prop :=
  ∀ s : State, ∃ t, exec .plicUpdate s = .next t ∧ Answered [.plic] .ok s t ∧
    (∀ c, c < s.cfg.plicNumContexts → (t.plic.lineOf c = true ↔ ∃ k, 1 ≤ k ∧ k ≤ s.cfg.plicNumSources ∧
      s.plic.pending.getLsbD k = true ∧ (s.plic.enabledOf c).getLsbD k = true ∧
      (∀ c', c' < s.cfg.plicNumContexts → (s.plic.claimedOf c').getLsbD k = false) ∧
      (s.plic.thresh c).toNat < (s.plic.prio k).toNat)) ∧
    t.plic.pending = s.plic.pending ∧ t.plic.priority = s.plic.priority ∧ t.plic.enabled = s.plic.enabled ∧
    t.plic.threshold = s.plic.threshold ∧ t.plic.claimed = s.plic.claimed ∧
    (∀ c k, s.plic.prio k = 0#32 → ¬ s.plic.Eligible s.cfg c k)

/-- 41_plic.md R192, R198 law 6, 60_exceptions.md R376: `int_check` returns the line, and on a state whose lines are current that is whether
`claim` would return a source. The external interrupt the core sees pending for a (hart, mode) pair is the level `int_check` returns for the
context that `CTX_OF` gives the pair; a pair with no context has none (the two modes are log entry 23). -/
def Obligations.IntCheckReturnsTheLine : Prop :=
  ∀ (s : State) (c : Nat),
    (c < s.cfg.plicNumContexts → ∃ t, exec (.plicIntCheck c) s = .next t ∧ Answered [] (.level (s.plic.lineOf c)) s t) ∧
    (c < s.cfg.plicNumContexts → s.plic.LinesCurrent s.cfg →
      (PlicSlot.claim c).offset + 4 ≤ s.cfg.plicSize →
      ∃ t k, exec (.plicClaimLd c) s = .next t ∧ t.resp = .loaded 4 k ∧ (s.plic.lineOf c = true ↔ k ≠ 0#64)) ∧
    (s.cfg.plicNumContexts ≤ c → exec (.plicIntCheck c) s = .refused .badContext) ∧
    (∀ h m, s.cfg.ctxValid = true → ((h, m), c) ∈ s.cfg.ctxOf →
      ∃ t l, exec (.plicIntCheck c) s = .next t ∧ t.resp = .level l ∧ s.externalPending h m = some l) ∧
    (∀ h m, (∀ c', ((h, m), c') ∉ s.cfg.ctxOf) → s.externalPending h m = none)

/-! ### CLINT -/

/-- 42_clint.md R233: the software-interrupt registers. -/
def Obligations.MsipRegisters : Prop :=
  ∀ (s : State) (h : Nat) (v : Word), (ClintSlot.msip h).offset + 4 ≤ s.cfg.clintSize →
    (h < s.cfg.numHarts →
      (∃ t, exec (.clintMsipLd h) s = .next t ∧
        Answered [] (.loaded 4 (if s.clint.msipOf h = true then 1#64 else 0#64)) s t) ∧
      (∃ t, exec (.clintMsipSt h v) s = .next t ∧ Answered [.clint] .ok s t ∧
        (∀ j, t.clint.msipOf j = if j = h then v.getLsbD 0 else s.clint.msipOf j) ∧
        (∀ j, t.clint.msipOutOf j = if j = h then v.getLsbD 0 else s.clint.msipOutOf j) ∧
        (∀ j, t.clint.mtipOutOf j =
          if j = h then decide ((s.clint.cmp s.cfg h).toNat ≤ s.clint.mtime.toNat) else s.clint.mtipOutOf j) ∧
        t.clint.mtime = s.clint.mtime ∧ t.clint.mtimecmp = s.clint.mtimecmp ∧ t.clint.rtLast = s.clint.rtLast)) ∧
    (s.cfg.numHarts ≤ h →
      (∃ t, exec (.clintMsipLd h) s = .next t ∧ Answered [] (holeLoadAnswer 4 s.cfg.holeClint) s t) ∧
      (∃ t, exec (.clintMsipSt h v) s = .next t ∧ Answered [] (holeStoreAnswer s.cfg.holeClint) s t))

/-- 42_clint.md R234, R235: the loads of `mtimecmp[h]`, whole and by halves. -/
def Obligations.MtimecmpLoads : Prop :=
  ∀ (s : State) (h : Nat),
    ((ClintSlot.cmp64 h).offset + 8 ≤ s.cfg.clintSize →
      ∃ t, exec (.clintMtimecmpLd64 h) s = .next t ∧
        Answered [] (if h < s.cfg.numHarts then .loaded 8 (s.clint.cmp s.cfg h) else holeLoadAnswer 8 s.cfg.holeClint) s t) ∧
    ((ClintSlot.cmpLo h).offset + 4 ≤ s.cfg.clintSize →
      ∃ t, exec (.clintMtimecmpLdLo h) s = .next t ∧
        Answered [] (if h < s.cfg.numHarts then .loaded 4 (BitVec.ofNat 64 ((s.clint.cmp s.cfg h).toNat % 2 ^ 32))
          else holeLoadAnswer 4 s.cfg.holeClint) s t) ∧
    ((ClintSlot.cmpHi h).offset + 4 ≤ s.cfg.clintSize →
      ∃ t, exec (.clintMtimecmpLdHi h) s = .next t ∧
        Answered [] (if h < s.cfg.numHarts then .loaded 4 (BitVec.ofNat 64 ((s.clint.cmp s.cfg h).toNat / 2 ^ 32))
          else holeLoadAnswer 4 s.cfg.holeClint) s t)

/-- 42_clint.md R234, R235, R241: the stores to `mtimecmp[h]`: the whole register, or one half without losing the other; the comparison
follows at once, with the present time in real-time mode. -/
def Obligations.MtimecmpStores : Prop :=
  ∀ (s : State) (h : Nat) (i : Instr) (new : DWord),
    ((i = .clintMtimecmpSt64 h new ∧ (ClintSlot.cmp64 h).offset + 8 ≤ s.cfg.clintSize) ∨
      (∃ v : Word, i = .clintMtimecmpStLo h v ∧ (ClintSlot.cmpLo h).offset + 4 ≤ s.cfg.clintSize ∧
        new.toNat = (s.clint.cmp s.cfg h).toNat / 2 ^ 32 * 2 ^ 32 + v.toNat) ∨
      (∃ v : Word, i = .clintMtimecmpStHi h v ∧ (ClintSlot.cmpHi h).offset + 4 ≤ s.cfg.clintSize ∧
        new.toNat = v.toNat * 2 ^ 32 + (s.clint.cmp s.cfg h).toNat % 2 ^ 32)) →
    (h < s.cfg.numHarts → s.cfg.clintRealtime = false →
      ∃ t, exec i s = .next t ∧ Answered [.clint] .ok s t ∧
        (∀ j, t.clint.cmp s.cfg j = if j = h then new else s.clint.cmp s.cfg j) ∧
        (∀ j, t.clint.mtipOutOf j = if j = h then decide (new.toNat ≤ s.clint.mtime.toNat) else s.clint.mtipOutOf j) ∧
        (∀ j, t.clint.msipOutOf j = if j = h then s.clint.msipOf h else s.clint.msipOutOf j) ∧
        t.clint.mtime = s.clint.mtime ∧ t.clint.msip = s.clint.msip ∧ t.clint.rtLast = s.clint.rtLast) ∧
    (h < s.cfg.numHarts → s.cfg.clintRealtime = true →
      ∃ t, exec i s = .next t ∧ Answered [.clint, .draws] .ok s t ∧
        (∀ j, t.clint.cmp s.cfg j = if j = h then new else s.clint.cmp s.cfg j) ∧ t.clint.msip = s.clint.msip ∧
        s.clint.rtLast.toNat ≤ t.clint.mtime.toNat ∧ t.clint.rtLast = t.clint.mtime ∧ t.clint.OutputsCurrent s.cfg) ∧
    (s.cfg.numHarts ≤ h → ∃ t, exec i s = .next t ∧ Answered [] (holeStoreAnswer s.cfg.holeClint) s t)

/-- 42_clint.md R232, R241: the loads of `mtime`. In real-time mode each draws a new value at or above the last one. -/
def Obligations.MtimeLoads : Prop :=
  ∀ (s : State) (i : Instr) (n : Nat) (part : DWord → Nat),
    ((i = .clintMtimeLd64 ∧ n = 8 ∧ 0xBFF8 + 8 ≤ s.cfg.clintSize ∧ part = fun x => x.toNat) ∨
     (i = .clintMtimeLdLo ∧ n = 4 ∧ 0xBFF8 + 4 ≤ s.cfg.clintSize ∧ part = fun x => x.toNat % 2 ^ 32) ∨
     (i = .clintMtimeLdHi ∧ n = 4 ∧ 0xBFFC + 4 ≤ s.cfg.clintSize ∧ part = fun x => x.toNat / 2 ^ 32)) →
    (s.cfg.clintRealtime = false →
      ∃ t, exec i s = .next t ∧ Answered [] (.loaded n (BitVec.ofNat 64 (part s.clint.mtime))) s t) ∧
    (s.cfg.clintRealtime = true →
      ∃ t, exec i s = .next t ∧ Answered [.clint, .draws] (.loaded n (BitVec.ofNat 64 (part t.clint.mtime))) s t ∧
        s.clint.rtLast.toNat ≤ t.clint.mtime.toNat ∧ t.clint.rtLast = t.clint.mtime ∧ t.clint.OutputsCurrent s.cfg ∧
        t.clint.msip = s.clint.msip ∧ t.clint.mtimecmp = s.clint.mtimecmp)

/-- 42_clint.md R236: the stores to `mtime`, ignored unless it is writable and the mode is tick mode. -/
def Obligations.MtimeStores : Prop :=
  ∀ (s : State) (i : Instr) (new : DWord),
    ((i = .clintMtimeSt64 new ∧ 0xBFF8 + 8 ≤ s.cfg.clintSize) ∨
      (∃ v : Word, i = .clintMtimeStLo v ∧ 0xBFF8 + 4 ≤ s.cfg.clintSize ∧
        new.toNat = s.clint.mtime.toNat / 2 ^ 32 * 2 ^ 32 + v.toNat) ∨
      (∃ v : Word, i = .clintMtimeStHi v ∧ 0xBFFC + 4 ≤ s.cfg.clintSize ∧
        new.toNat = v.toNat * 2 ^ 32 + s.clint.mtime.toNat % 2 ^ 32)) →
    (s.cfg.clintMtimeWritable = false ∨ s.cfg.clintRealtime = true →
      ∃ t, exec i s = .next t ∧ Answered [] .ok s t) ∧
    (s.cfg.clintMtimeWritable = true → s.cfg.clintRealtime = false →
      ∃ t, exec i s = .next t ∧ Answered [.clint] .ok s t ∧ t.clint.mtime = new ∧ t.clint.OutputsCurrent s.cfg ∧
        t.clint.msip = s.clint.msip ∧ t.clint.mtimecmp = s.clint.mtimecmp ∧ t.clint.rtLast = s.clint.rtLast)

/-- 42_clint.md R230, R241: `increment(delta)`. -/
def Obligations.IncrementAdvancesTime : Prop :=
  ∀ (s : State) (delta : DWord),
    (s.cfg.clintRealtime = false →
      ∃ t, exec (.clintIncrement delta) s = .next t ∧ Answered [.clint] .ok s t ∧
        t.clint.mtime.toNat = (s.clint.mtime.toNat + delta.toNat) % 2 ^ 64 ∧ t.clint.OutputsCurrent s.cfg ∧
        t.clint.msip = s.clint.msip ∧ t.clint.mtimecmp = s.clint.mtimecmp ∧ t.clint.rtLast = s.clint.rtLast) ∧
    (s.cfg.clintRealtime = true →
      ∃ t, exec (.clintIncrement delta) s = .next t ∧ Answered [.clint, .draws] .ok s t ∧
        s.clint.rtLast.toNat ≤ t.clint.mtime.toNat ∧ t.clint.rtLast = t.clint.mtime ∧ t.clint.OutputsCurrent s.cfg ∧
        t.clint.msip = s.clint.msip ∧ t.clint.mtimecmp = s.clint.mtimecmp)

/-- 42_clint.md R239: the timer law in tick mode: with `mtimecmp[h]` set `k` ticks ahead, `increment(d)` raises the timer line exactly when
`d` reaches `k`; and `MSIP_out[h]` changes only by a store to `msip[h]`. -/
def Obligations.TimerFiresExactlyAtTheCompare : Prop :=
  (∀ (s : State) (h k : Nat) (d : DWord), s.cfg.clintRealtime = false → h < s.cfg.numHarts →
    (ClintSlot.cmp64 h).offset + 8 ≤ s.cfg.clintSize → 1 ≤ k → s.clint.mtime.toNat + k < 2 ^ 64 →
    s.clint.mtime.toNat + d.toNat < 2 ^ 64 →
    ∃ t u, exec (.clintMtimecmpSt64 h (s.clint.mtime + BitVec.ofNat 64 k)) s = .next t ∧
      exec (.clintIncrement d) t = .next u ∧ t.clint.mtipOutOf h = false ∧
      u.clint.mtipOutOf h = decide (k ≤ d.toNat)) ∧
  (∀ (i : Instr) (s t : State) (h : Nat), exec i s = .next t → s.clint.OutputsCurrent s.cfg → h < s.cfg.numHarts →
    t.clint.msipOutOf h ≠ s.clint.msipOutOf h →
    (∃ v, i = .clintMsipSt h v) ∨ ∃ addr v, i = .busStore addr 4 v ∧ s.route addr 4 = some (.clint, 4 * h))

/-! ### SDHC -/

/-- 43_sdhc.md R260, R261, R262, 30_encoding.md R132, 20_memory.md R103: a load of `n` bytes at an offset, by a register's row or through the
Bus, returns the covered bytes, little-endian, whichever registers own them, a hole byte (the first one too) reading 0, and changes
nothing. -/
def Obligations.SdhcRegisterLoads : Prop :=
  ∀ (s : State) (i : Instr) (off n : Nat), SdhcLoads s off n i → n = 1 ∨ n = 2 ∨ n = 4 ∨ n = 8 →
    off + n ≤ 0x20 ∨ 0x24 ≤ off → SdhcOpen s off n →
    ∃ t v, exec i s = .next t ∧ Answered [] (.loaded n v) s t ∧ v.toNat < 2 ^ (8 * n) ∧
      (∀ j, j < n → ∀ r k, k < SdhcReg.len r → r.lo + k = off + j → getByte v j = s.sdhc.regByte r k) ∧
      (∀ j, j < n → (∀ r k, k < SdhcReg.len r → r.lo + k ≠ off + j) → getByte v j = 0#8)

/-- 43_sdhc.md R260, R261, R284, 10_state.md R40 to R62: a load of a whole register, or of each half of `RESP`, returns its value;
`NISTS[15]` reads `EISTS != 0` and bits 14:9 read 0. -/
def Obligations.SdhcWholeRegisterLoads : Prop :=
  ∀ (s : State), s.sdhc.mounted = true → 0x100 ≤ s.cfg.sdhcSize →
    ∀ p ∈ ([(.sdhcSysaddrLd 0 4, 4, s.sdhc.sysaddr.setWidth 64), (.sdhcBlksizeLd 0 2, 2, s.sdhc.blksize.setWidth 64),
      (.sdhcBlkcntLd 0 2, 2, s.sdhc.blkcnt.setWidth 64), (.sdhcArgLd 0 4, 4, s.sdhc.arg.setWidth 64),
      (.sdhcXfermodeLd 0 2, 2, s.sdhc.xfermode.setWidth 64), (.sdhcCmdLd 0 2, 2, s.sdhc.cmd.setWidth 64),
      (.sdhcXfermodeLd 0 4, 4, (s.sdhc.cmd ++ s.sdhc.xfermode).setWidth 64),
      (.sdhcRespLd 0 8, 8, s.sdhc.resp1 ++ s.sdhc.resp0), (.sdhcRespLd 8 8, 8, s.sdhc.resp3 ++ s.sdhc.resp2),
      (.sdhcPrsntLd 0 4, 4, s.sdhc.prsnt.setWidth 64), (.sdhcHostctlLd 0 1, 1, s.sdhc.hostctl.setWidth 64),
      (.sdhcPwrctlLd 0 1, 1, s.sdhc.pwrctl.setWidth 64), (.sdhcClkctlLd 0 2, 2, s.sdhc.clkctl.setWidth 64),
      (.sdhcToctlLd 0 1, 1, s.sdhc.toctl.setWidth 64), (.sdhcSwrstLd 0 1, 1, s.sdhc.swrst.setWidth 64),
      (.sdhcNistsLd 0 2, 2, ((s.sdhc.nists &&& 0x01FF#16) ||| (if s.sdhc.eists = 0#16 then 0#16 else 0x8000#16)).setWidth 64),
      (.sdhcEistsLd 0 2, 2, s.sdhc.eists.setWidth 64), (.sdhcNistenLd 0 2, 2, s.sdhc.nisten.setWidth 64),
      (.sdhcEistenLd 0 2, 2, s.sdhc.eisten.setWidth 64), (.sdhcNisigenLd 0 2, 2, s.sdhc.nisigen.setWidth 64),
      (.sdhcEisigenLd 0 2, 2, s.sdhc.eisigen.setWidth 64), (.sdhcCapsLd 0 8, 8, s.sdhc.caps),
      (.sdhcMaxcurLd 0 8, 8, s.sdhc.maxcur), (.sdhcVersionLd 0 2, 2, s.sdhc.version.setWidth 64)] :
        List (Instr × Nat × DWord)),
      ∃ t, exec p.1 s = .next t ∧ Answered [] (.loaded p.2.1 p.2.2) s t

/-- 43_sdhc.md R260, R261, R262, R264, R283, R284, 30_encoding.md R132: a store, by a register's row or through the Bus, that covers neither
the command byte, the reset byte nor `BUFDATA` writes each covered byte under its register's write rule, ignores hole bytes (the first one
too), leaves every other byte, the buffer and the image alone, and recomputes the line; that it does so also where every covered byte is a
hole or read-only is log entry 29. (The DMA bit is clear in every state that `FixedBitsAndSdhcLineAreKept` rules in.) -/
def Obligations.SdhcRegisterStores : Prop :=
  ∀ (s : State) (i : Instr) (off n : Nat) (v : DWord), SdhcStores s off n v i → n = 1 ∨ n = 2 ∨ n = 4 ∨ n = 8 →
    off + n ≤ 0x20 ∨ 0x24 ≤ off → covers off n 0x0F = false → covers off n 0x2F = false →
    SdhcOpen s off n → s.sdhc.xfermode.getLsbD 0 = false →
    ∃ t, exec i s = .next t ∧ SdhcAccess [] .ok s t ∧
      (∀ r k, k < SdhcReg.len r →
        t.sdhc.stored r k =
          if off ≤ r.lo + k ∧ r.lo + k < off + n
          then writtenByte r k (s.sdhc.stored r k) (getByte v (r.lo + k - off)) else s.sdhc.stored r k) ∧
      t.sdhc.mounted = s.sdhc.mounted ∧ t.sdhc.capacity = s.sdhc.capacity ∧ t.sdhc.image = s.sdhc.image ∧
      t.sdhc.pos = s.sdhc.pos ∧ t.sdhc.buf = s.sdhc.buf ∧ t.sdhc.cursor = s.sdhc.cursor ∧ t.sdhc.xfer = s.sdhc.xfer

/-- 43_sdhc.md R283, R284: the transfer-mode store masks the DMA bit; the status stores clear the bits written as 1. -/
def Obligations.TransferModeAndStatusStores : Prop :=
  ∀ (s : State) (v : DWord), s.sdhc.mounted = true → 0x100 ≤ s.cfg.sdhcSize →
    (∃ t, exec (.sdhcXfermodeSt 0 2 v) s = .next t ∧ SdhcAccess [] .ok s t ∧
      t.sdhc = { s.sdhc with xfermode := v.setWidth 16 &&& 0xFFFE#16, line := t.sdhc.line }) ∧
    (∃ t, exec (.sdhcNistsSt 0 2 v) s = .next t ∧ SdhcAccess [] .ok s t ∧
      t.sdhc = { s.sdhc with nists := s.sdhc.nists &&& ~~~(v.setWidth 16 &&& 0x7FFF#16), line := t.sdhc.line }) ∧
    (∃ t, exec (.sdhcEistsSt 0 2 v) s = .next t ∧ SdhcAccess [] .ok s t ∧
      t.sdhc = { s.sdhc with eists := s.sdhc.eists &&& ~~~v.setWidth 16, line := t.sdhc.line })

/-- 43_sdhc.md R264, R272, R273, R274, 60_exceptions.md R372, R373: a store that covers byte 0x0F, by a register's row
or through the Bus, writes its bytes (`e`) and issues the command `CMD[13:8]`. The capacity test is exact (log entry 18). -/
def Obligations.CommandStoresIssueTheCommand : Prop :=
  ∀ (s : State) (i : Instr) (off n : Nat) (v : DWord) (e : Sdhc) (idx : Nat) (cc : Half), SdhcStores s off n v i →
    n = 1 ∨ n = 2 ∨ n = 4 ∨ n = 8 → covers off n 0x0F = true → SdhcOpen s off n →
    e = s.sdhc.putValueAt off n v → idx = e.cmd.toNat / 256 % 64 →
    cc = (if e.nisten.getLsbD 0 = true then 0x0001#16 else 0#16) →
    (idx ≠ 17 → idx ≠ 18 → idx ≠ 24 → idx ≠ 25 →
      ∃ t, exec i s = .next t ∧ SdhcAccess [.counters] .ok s t ∧
        t.sdhc = { e with nists := e.nists ||| cc, line := t.sdhc.line } ∧
        t.counters = { s.counters with malformedCommand := s.counters.malformedCommand + 1 }) ∧
    (idx = 17 ∨ idx = 18 ∨ idx = 24 ∨ idx = 25 →
      (e.xfer ≠ .none → exec i s = .refused .commandDuringTransfer) ∧
      (e.xfer = .none → e.blksize.toNat % 4096 ≠ 512 → exec i s = .refused .unsupportedBlockSize) ∧
      (e.xfer = .none → e.blksize.toNat % 4096 = 512 → e.capacity.toNat < e.arg.toNat + 512 →
        ∃ t, exec i s = .next t ∧ SdhcAccess [.counters] .ok s t ∧
          t.sdhc = { e with pos := e.arg.setWidth 64, nists := e.nists ||| cc, line := t.sdhc.line } ∧
          t.counters = { s.counters with capacityExceeded := s.counters.capacityExceeded + 1 }) ∧
      (e.xfer = .none → e.blksize.toNat % 4096 = 512 → e.arg.toNat + 512 ≤ e.capacity.toNat →
        (idx = 17 ∨ idx = 18 →
          ∃ t, exec i s = .next t ∧ SdhcAccess [] .ok s t ∧
            t.sdhc = { e with
              pos := e.arg.setWidth 64, buf := t.sdhc.buf, cursor := 0, xfer := .read, line := t.sdhc.line
              prsnt := e.prsnt ||| 0x00000A00#32, nists := e.nists ||| 0x0020#16 ||| cc } ∧
            (∀ j, readByte t.sdhc.buf j =
              if j < 512 then readByte e.image (e.arg.toNat + j) else readByte e.buf j)) ∧
        (idx = 24 ∨ idx = 25 →
          ∃ t, exec i s = .next t ∧ SdhcAccess [] .ok s t ∧
            t.sdhc = { e with
              pos := e.arg.setWidth 64, cursor := 0, xfer := .write, line := t.sdhc.line
              prsnt := e.prsnt ||| 0x00000500#32, nists := e.nists ||| 0x0010#16 ||| cc })))

/-- 43_sdhc.md R264, R282: a store that covers byte 0x2F, by a register's row or through the Bus (from a hole at 0x2A or 0x2B too),
writes its bytes (`e`), then resets what the byte `b` stored there asks for, and `SWRST` clears itself. -/
def Obligations.SoftwareResetStores : Prop :=
  ∀ (s : State) (i : Instr) (off n : Nat) (v : DWord) (e : Sdhc) (b : Byte), SdhcStores s off n v i →
    n = 1 ∨ n = 2 ∨ n = 4 ∨ n = 8 → covers off n 0x2F = true → SdhcOpen s off n →
    e = s.sdhc.putValueAt off n v → b = getByte v (0x2F - off) →
    (b.getLsbD 0 = true →
      ∃ t, exec i s = .next t ∧ SdhcAccess [] .ok s t ∧
        t.sdhc = { Sdhc.construct s.cfg s.sdhc.image s.sdhc.buf with
          mounted := s.sdhc.mounted, capacity := s.sdhc.capacity, pos := s.sdhc.pos, line := false }) ∧
    (b.getLsbD 0 = false →
      ∃ t, exec i s = .next t ∧ SdhcAccess [] .ok s t ∧
        t.sdhc = { e with
          swrst := 0#8, line := t.sdhc.line
          prsnt := e.prsnt &&& ~~~(if b.getLsbD 1 then 0x00000001#32 else 0#32) &&&
            ~~~(if b.getLsbD 2 then 0x00000F02#32 else 0#32)
          nists := e.nists &&& ~~~(if b.getLsbD 1 then 0x0001#16 else 0#16) &&&
            ~~~(if b.getLsbD 2 then 0x003E#16 else 0#16)
          cursor := if b.getLsbD 2 then 0 else e.cursor
          xfer := if b.getLsbD 2 then .none else e.xfer })

/-- 43_sdhc.md R276, R278, R279, 60_exceptions.md R371: `BUFDATA` loads. That a load from a disabled buffer changes the counter alone and does
not recompute the line is log entry 17; the exact capacity test at a block's end is log entry 18. -/
def Obligations.BufferLoads : Prop :=
  ∀ (s : State), s.sdhc.mounted = true → 0x24 ≤ s.cfg.sdhcSize →
    (s.sdhc.xfer ≠ .read ∨ s.sdhc.prsnt.getLsbD 11 = false →
      ∃ t, exec .sdhcBufdataLd s = .next t ∧ Answered [.counters] (.loaded 4 0#64) s t ∧
        t.counters = { s.counters with deviceNotReady := s.counters.deviceNotReady + 1 }) ∧
    (s.sdhc.xfer = .read → s.sdhc.prsnt.getLsbD 11 = true →
      (s.sdhc.blksize.toNat % 4096 ≠ 512 → exec .sdhcBufdataLd s = .refused .unsupportedBlockSize) ∧
      (s.sdhc.blksize.toNat % 4096 = 512 →
        ∃ t v, exec .sdhcBufdataLd s = .next t ∧ SdhcAccess [.counters] (.loaded 4 v) s t ∧ v.toNat < 2 ^ 32 ∧
          (∀ j, j < 4 → getByte v j = readByte s.sdhc.buf (s.sdhc.cursor + j)) ∧
          (s.sdhc.cursor + 4 ≠ 512 →
            t.sdhc = { s.sdhc with cursor := s.sdhc.cursor + 4, line := t.sdhc.line } ∧ t.counters = s.counters) ∧
          (s.sdhc.cursor + 4 = 512 →
            ∃ logged, BlockEnded { s.sdhc with cursor := 512 } t.sdhc logged ∧
              t.counters = { s.counters with capacityExceeded := s.counters.capacityExceeded + logged })))

/-- 43_sdhc.md R277, R278, R279, R280, 60_exceptions.md R371: `BUFDATA` stores. The image changes only at a block end, and there exactly in
the block at the seek position, which receives the buffer. That a store to a disabled buffer changes the counter alone and does not
recompute the line is log entry 17; the exact capacity test at a block's end is log entry 18. -/
def Obligations.BufferStores : Prop :=
  ∀ (s : State) (v : Word), s.sdhc.mounted = true → 0x24 ≤ s.cfg.sdhcSize →
    (s.sdhc.xfer ≠ .write ∨ s.sdhc.prsnt.getLsbD 10 = false →
      ∃ t, exec (.sdhcBufdataSt v) s = .next t ∧ Answered [.counters] .ok s t ∧
        t.counters = { s.counters with deviceNotReady := s.counters.deviceNotReady + 1 }) ∧
    (s.sdhc.xfer = .write → s.sdhc.prsnt.getLsbD 10 = true →
      (s.sdhc.blksize.toNat % 4096 ≠ 512 → exec (.sdhcBufdataSt v) s = .refused .unsupportedBlockSize) ∧
      (s.sdhc.blksize.toNat % 4096 = 512 →
        ∃ t, exec (.sdhcBufdataSt v) s = .next t ∧ SdhcAccess [.counters] .ok s t ∧
          (∀ j, readByte t.sdhc.buf j =
            if s.sdhc.cursor ≤ j ∧ j < s.sdhc.cursor + 4 then getByte v (j - s.sdhc.cursor) else readByte s.sdhc.buf j) ∧
          (∀ a, readByte t.sdhc.image a =
            if s.sdhc.cursor + 4 = 512 ∧ s.sdhc.pos.toNat ≤ a ∧ a < s.sdhc.pos.toNat + 512
            then readByte t.sdhc.buf (a - s.sdhc.pos.toNat) else readByte s.sdhc.image a) ∧
          (s.sdhc.cursor + 4 ≠ 512 →
            t.sdhc = { s.sdhc with cursor := s.sdhc.cursor + 4, buf := t.sdhc.buf, line := t.sdhc.line } ∧
            t.counters = s.counters) ∧
          (s.sdhc.cursor + 4 = 512 →
            ∃ logged, BlockEnded { s.sdhc with cursor := 512, buf := t.sdhc.buf, image := t.sdhc.image } t.sdhc logged ∧
              t.counters = { s.counters with capacityExceeded := s.counters.capacityExceeded + logged })))

/-- 43_sdhc.md R263: while the image is not mounted, every SDHC load and store fails and changes no state, before every other SDHC
rule. -/
def Obligations.UnmountedAccessesFail : Prop :=
  ∀ (s : State), s.sdhc.mounted = false →
    (∀ (r : SdhcReg) (i n : Nat) (v : DWord),
      (∃ t, exec (r.ldInstr i n) s = .next t ∧ Answered [] .failed s t) ∧
      (∃ t, exec (r.stInstr i n v) s = .next t ∧ Answered [] .failed s t)) ∧
    (∀ (addr : DWord) (n off : Nat) (v : DWord), n = 1 ∨ n = 2 ∨ n = 4 ∨ n = 8 → s.route addr n = some (.sdhc, off) →
      (∃ t, exec (.busLoad addr n) s = .next t ∧ Answered [] .failed s t) ∧
      (∃ t, exec (.busStore addr n v) s = .next t ∧ Answered [] .failed s t))

/-- 43_sdhc.md R288 law 1 (its loads): a read command followed by `BUFDATA` loads; the load after `k` others (`k < 128`) returns bytes
`4k` to `4k+3` of the block of the image at `ARG`. -/
def Obligations.BlockReadReturnsTheImage : Prop :=
  ∀ (s : State) (k : Nat), s.sdhc.mounted = true → 0x24 ≤ s.cfg.sdhcSize → s.sdhc.xfer = .none →
    s.sdhc.blksize.toNat % 4096 = 512 → s.sdhc.arg.toNat + 512 ≤ s.sdhc.capacity.toNat → k < 128 →
    s.requests = encode (.sdhcCmdSt 0 2 0x1100#64) :: List.replicate (k + 1) (encode .sdhcBufdataLd) →
    ∃ (t : State) (v : DWord), Host.Core.run Sys2Proof.core (k + 2) s = .next t ∧ t.resp = .loaded 4 v ∧
      ∀ j, j < 4 → getByte v j = readByte s.sdhc.image (s.sdhc.arg.toNat + 4 * k + j)

/-! ### UART -/

/-- 44_uart.md R341, R343, R344, R346, R347, R348: the stores, each followed by `check_int()` (R340). Two rows at one offset reach the
register that `DLAB` selects (30_encoding.md R140; log entry 16). That the ignored stores to `LSR` and `MSR` call `check_int()` too is log
entry 29. -/
def Obligations.UartStores : Prop :=
  ∀ (s : State) (v : Byte),
    (InUart s 0 → s.uart.lcr.getLsbD 7 = false → ∀ i, i = .uartThrSt v ∨ i = .uartDllSt v →
      ∃ t, exec i s = .next t ∧ UartAccess { s.uart with txlog := s.uart.txlog ++ [v] } .ok s t) ∧
    (InUart s 0 → s.uart.lcr.getLsbD 7 = true → ∀ i, i = .uartThrSt v ∨ i = .uartDllSt v →
      ∃ t, exec i s = .next t ∧ UartAccess { s.uart with dll := v } .ok s t) ∧
    (InUart s 1 → s.uart.lcr.getLsbD 7 = false → ∀ i, i = .uartIerSt v ∨ i = .uartDlmSt v →
      ∃ t, exec i s = .next t ∧ UartAccess { s.uart with ier := v &&& 0x0F#8 } .ok s t) ∧
    (InUart s 1 → s.uart.lcr.getLsbD 7 = true → ∀ i, i = .uartIerSt v ∨ i = .uartDlmSt v →
      ∃ t, exec i s = .next t ∧ UartAccess { s.uart with dlm := v } .ok s t) ∧
    (InUart s 2 → ∃ t, exec (.uartFcrSt v) s = .next t ∧ UartAccess { s.uart with fcr := v &&& 0x01#8 } .ok s t) ∧
    (InUart s 3 → ∃ t, exec (.uartLcrSt v) s = .next t ∧ UartAccess { s.uart with lcr := v } .ok s t) ∧
    (InUart s 4 → ∃ t, exec (.uartMcrSt v) s = .next t ∧ UartAccess { s.uart with mcr := v } .ok s t) ∧
    (InUart s 5 → s.uart.lcr.getLsbD 7 = false → ∀ i, i = .uartLsrSt v ∨ i = .uartPsdSt v →
      ∃ t, exec i s = .next t ∧ UartAccess s.uart .ok s t) ∧
    (InUart s 5 → s.uart.lcr.getLsbD 7 = true → ∀ i, i = .uartLsrSt v ∨ i = .uartPsdSt v →
      ∃ t, exec i s = .next t ∧ UartAccess { s.uart with psd := v } .ok s t) ∧
    (InUart s 6 → ∃ t, exec (.uartMsrSt v) s = .next t ∧ UartAccess s.uart .ok s t) ∧
    (InUart s 7 → ∃ t, exec (.uartScrSt v) s = .next t ∧ UartAccess { s.uart with scr := v } .ok s t)

/-- 44_uart.md R341, R342, R344, R345, R347, R348: the loads, each followed by `check_int()` (R340). Two rows at one offset reach the
register that `DLAB` selects (30_encoding.md R140; log entry 16). -/
def Obligations.UartLoads : Prop :=
  ∀ (s : State),
    (InUart s 0 → s.uart.lcr.getLsbD 7 = false → ∀ i, i = .uartRbrLd ∨ i = .uartDllLd →
      (∀ b rest, s.uart.rxq = b :: rest →
        ∃ t, exec i s = .next t ∧ UartAccess { s.uart with rxq := rest } (.loaded 1 (b.setWidth 64)) s t) ∧
      (s.uart.rxq = [] → ∃ t, exec i s = .next t ∧ UartAccess s.uart (.loaded 1 0#64) s t)) ∧
    (InUart s 0 → s.uart.lcr.getLsbD 7 = true → ∀ i, i = .uartRbrLd ∨ i = .uartDllLd →
      ∃ t, exec i s = .next t ∧ UartAccess s.uart (.loaded 1 (s.uart.dll.setWidth 64)) s t) ∧
    (InUart s 1 → s.uart.lcr.getLsbD 7 = false → ∀ i, i = .uartIerLd ∨ i = .uartDlmLd →
      ∃ t, exec i s = .next t ∧ UartAccess s.uart (.loaded 1 ((s.uart.ier &&& 0x0F#8).setWidth 64)) s t) ∧
    (InUart s 1 → s.uart.lcr.getLsbD 7 = true → ∀ i, i = .uartIerLd ∨ i = .uartDlmLd →
      ∃ t, exec i s = .next t ∧ UartAccess s.uart (.loaded 1 (s.uart.dlm.setWidth 64)) s t) ∧
    (InUart s 2 →
      ∃ t v, exec .uartIirLd s = .next t ∧ UartAccess s.uart (.loaded 1 v) s t ∧
        v = (if s.uart.fcr.getLsbD 0 = true then 0xC0#64 else 0#64) +
          (if s.uart.ier.getLsbD 0 = true ∧ s.uart.rxq ≠ [] then 4#64
           else if s.cfg.uartThreIrq = true ∧ s.uart.ier.getLsbD 1 = true then 2#64 else 1#64)) ∧
    (InUart s 3 → ∃ t, exec .uartLcrLd s = .next t ∧ UartAccess s.uart (.loaded 1 (s.uart.lcr.setWidth 64)) s t) ∧
    (InUart s 4 → ∃ t, exec .uartMcrLd s = .next t ∧ UartAccess s.uart (.loaded 1 (s.uart.mcr.setWidth 64)) s t) ∧
    (InUart s 5 → s.uart.lcr.getLsbD 7 = false → ∀ i, i = .uartLsrLd ∨ i = .uartPsdLd →
      ∃ t, exec i s = .next t ∧ UartAccess s.uart (.loaded 1 (if s.uart.rxq = [] then 0x60#64 else 0x61#64)) s t) ∧
    (InUart s 5 → s.uart.lcr.getLsbD 7 = true → ∀ i, i = .uartLsrLd ∨ i = .uartPsdLd →
      ∃ t, exec i s = .next t ∧ UartAccess s.uart (.loaded 1 (s.uart.psd.setWidth 64)) s t) ∧
    (InUart s 6 →
      ∃ t, exec .uartMsrLd s = .next t ∧ UartAccess s.uart (.loaded 1 (s.cfg.uartMsrValue.setWidth 64)) s t) ∧
    (InUart s 7 → ∃ t, exec .uartScrLd s = .next t ∧ UartAccess s.uart (.loaded 1 (s.uart.scr.setWidth 64)) s t)

/-- 44_uart.md R350, R351, R352 law 1: `uart_poll` recomputes the line, which is low after it with receive interrupts disabled and no
transmit interrupt; `host_input` appends bytes and leaves the line as it is. -/
def Obligations.PollAndHostInput : Prop :=
  ∀ (s : State) (bytes : List Byte),
    (∃ t, exec .uartPoll s = .next t ∧ UartAccess s.uart .ok s t ∧
      (s.uart.ier.getLsbD 0 = false → s.cfg.uartThreIrq = false → t.uart.line = false)) ∧
    (∃ t, exec (.uartHostInput bytes) s = .next t ∧ Answered [.uart] .ok s t ∧
      t.uart = { s.uart with rxq := s.uart.rxq ++ bytes })
end

