-- ==== Sys2Proof/Laws/Construct.lean ====
section
/-! SUPPORT. What construction does, said once. -/

namespace Sys2Proof.Machine

/-- Construction builds the construction state, exactly from the launches that 60_exceptions.md R375 and
70_reset_and_hazards.md R402 allow. -/
theorem State.construct_eq_ok_iff (l : Launch) (s : State) :
    State.construct l = .ok s ↔
      (l.cfg.valid = true ∧ (l.cfg.sdhcMounted = true → l.image ≠ none) ∧ l.rxq ≠ none) ∧ s = State.initial l := by
  unfold State.construct Config.valid
  cases l.cfg.paramsValid <;> cases l.cfg.rangesFit <;> cases l.cfg.rangesApart <;> cases l.cfg.sdhcMounted <;>
    cases l.image <;> cases l.rxq <;> simp [eq_comm]

theorem State.construct_of_ok {l : Launch} (h : l.Ok) : State.construct l = .ok (State.initial l) :=
  (State.construct_eq_ok_iff l _).2 ⟨⟨h.cfg, h.mounted, h.fifo⟩, rfl⟩

end Sys2Proof.Machine
end

