-- ==== Sys2Proof/Laws/Encoding.lean ====
section
/-! SUPPORT. The laws of the decoders: a record's fields survive rendering and parsing, each register map finds a register at its
own offset, and what the decoder answers for the records of each format. -/

namespace Sys2Proof

theorem leValue_leByte (v : DWord) :
    leValue (leByte v 0) (leByte v 1) (leByte v 2) (leByte v 3) (leByte v 4) (leByte v 5) (leByte v 6) (leByte v 7) = v := by
  unfold leValue leByte
  apply BitVec.eq_of_getLsbD_eq
  intro i hi
  simp only [BitVec.getLsbD_append, BitVec.getLsbD_extractLsb']
  by_cases h0 : i < 8
  · simp [h0]
  by_cases h1 : i < 16
  · have b : i - 8 < 8 := by omega
    have e : 8 * 1 + (i - 8) = i := by omega
    simp [h0, b, e]
  by_cases h2 : i < 24
  · have a : ¬ i - 8 < 8 := by omega
    have b : i - 8 - 8 < 8 := by omega
    have e : 8 * 2 + (i - 8 - 8) = i := by omega
    simp [h0, a, b, e]
  by_cases h3 : i < 32
  · have a1 : ¬ i - 8 < 8 := by omega
    have a2 : ¬ i - 8 - 8 < 8 := by omega
    have b : i - 8 - 8 - 8 < 8 := by omega
    have e : 8 * 3 + (i - 8 - 8 - 8) = i := by omega
    simp [h0, a1, a2, b, e]
  by_cases h4 : i < 40
  · have a1 : ¬ i - 8 < 8 := by omega
    have a2 : ¬ i - 8 - 8 < 8 := by omega
    have a3 : ¬ i - 8 - 8 - 8 < 8 := by omega
    have b : i - 8 - 8 - 8 - 8 < 8 := by omega
    have e : 8 * 4 + (i - 8 - 8 - 8 - 8) = i := by omega
    simp [h0, a1, a2, a3, b, e]
  by_cases h5 : i < 48
  · have a1 : ¬ i - 8 < 8 := by omega
    have a2 : ¬ i - 8 - 8 < 8 := by omega
    have a3 : ¬ i - 8 - 8 - 8 < 8 := by omega
    have a4 : ¬ i - 8 - 8 - 8 - 8 < 8 := by omega
    have b : i - 8 - 8 - 8 - 8 - 8 < 8 := by omega
    have e : 8 * 5 + (i - 8 - 8 - 8 - 8 - 8) = i := by omega
    simp [h0, a1, a2, a3, a4, b, e]
  by_cases h6 : i < 56
  · have a1 : ¬ i - 8 < 8 := by omega
    have a2 : ¬ i - 8 - 8 < 8 := by omega
    have a3 : ¬ i - 8 - 8 - 8 < 8 := by omega
    have a4 : ¬ i - 8 - 8 - 8 - 8 < 8 := by omega
    have a5 : ¬ i - 8 - 8 - 8 - 8 - 8 < 8 := by omega
    have b : i - 8 - 8 - 8 - 8 - 8 - 8 < 8 := by omega
    have e : 8 * 6 + (i - 8 - 8 - 8 - 8 - 8 - 8) = i := by omega
    simp [h0, a1, a2, a3, a4, a5, b, e]
  · have a1 : ¬ i - 8 < 8 := by omega
    have a2 : ¬ i - 8 - 8 < 8 := by omega
    have a3 : ¬ i - 8 - 8 - 8 < 8 := by omega
    have a4 : ¬ i - 8 - 8 - 8 - 8 < 8 := by omega
    have a5 : ¬ i - 8 - 8 - 8 - 8 - 8 < 8 := by omega
    have a6 : ¬ i - 8 - 8 - 8 - 8 - 8 - 8 < 8 := by omega
    have b : i - 8 - 8 - 8 - 8 - 8 - 8 - 8 < 8 := by omega
    have e : 8 * 7 + (i - 8 - 8 - 8 - 8 - 8 - 8 - 8) = i := by omega
    simp [h0, a1, a2, a3, a4, a5, a6, b, e]

/-- A record's fields survive rendering and parsing. -/
theorem parseFrame_renderFrame (f : Frame) : parseFrame (renderFrame f) = some f := by
  unfold parseFrame renderFrame
  simp only [leValue_leByte]

/-- The decoder on an encoded instruction is the decoder on its record's fields. -/
theorem decode_encode (i : Instr) : decode (encode i) = decodeFrame i.frame := by
  unfold decode encode
  rw [parseFrame_renderFrame]

/-! ### The register maps at a register's own offset -/

theorem plicSlot_priority {k : Nat} (h : k < 1024) : plicSlot (PlicSlot.priority k).offset = .priority k := by
  have h1 : 4 * k < 0x1000 := by omega
  have h2 : 4 * k / 4 = k := by omega
  show plicSlot (4 * k) = _
  unfold plicSlot
  rw [if_pos h1, h2]

theorem plicSlot_pending {w : Nat} (h : w < 32) : plicSlot (PlicSlot.pending w).offset = .pending w := by
  have h1 : ¬ 0x1000 + 4 * w < 0x1000 := by omega
  have h2 : 0x1000 + 4 * w < 0x1080 := by omega
  have h3 : (0x1000 + 4 * w - 0x1000) / 4 = w := by omega
  show plicSlot (0x1000 + 4 * w) = _
  unfold plicSlot
  rw [if_neg h1, if_pos h2, h3]

theorem plicSlot_enable {c w : Nat} (hc : c < 15872) (h : w < 32) : plicSlot (PlicSlot.enable c w).offset = .enable c w := by
  have h1 : ¬ 0x2000 + 0x80 * c + 4 * w < 0x1000 := by omega
  have h2 : ¬ 0x2000 + 0x80 * c + 4 * w < 0x1080 := by omega
  have h3 : ¬ 0x2000 + 0x80 * c + 4 * w < 0x2000 := by omega
  have h4 : 0x2000 + 0x80 * c + 4 * w < 0x1F2000 := by omega
  have h5 : (0x2000 + 0x80 * c + 4 * w - 0x2000) / 0x80 = c := by omega
  have h6 : (0x2000 + 0x80 * c + 4 * w - 0x2000) % 0x80 / 4 = w := by omega
  show plicSlot (0x2000 + 0x80 * c + 4 * w) = _
  unfold plicSlot
  rw [if_neg h1, if_neg h2, if_neg h3, if_pos h4, h5, h6]

theorem plicSlot_threshold {c : Nat} (hc : c < 15872) : plicSlot (PlicSlot.threshold c).offset = .threshold c := by
  have h1 : ¬ 0x200000 + 0x1000 * c < 0x1000 := by omega
  have h2 : ¬ 0x200000 + 0x1000 * c < 0x1080 := by omega
  have h3 : ¬ 0x200000 + 0x1000 * c < 0x2000 := by omega
  have h4 : ¬ 0x200000 + 0x1000 * c < 0x1F2000 := by omega
  have h5 : ¬ 0x200000 + 0x1000 * c < 0x200000 := by omega
  have h6 : 0x200000 + 0x1000 * c < 0x4000000 := by omega
  have h7 : (0x200000 + 0x1000 * c - 0x200000) % 0x1000 = 0 := by omega
  have h8 : (0x200000 + 0x1000 * c - 0x200000) / 0x1000 = c := by omega
  show plicSlot (0x200000 + 0x1000 * c) = _
  unfold plicSlot
  rw [if_neg h1, if_neg h2, if_neg h3, if_neg h4, if_neg h5, if_pos h6, if_pos h7, h8]

theorem plicSlot_claim {c : Nat} (hc : c < 15872) : plicSlot (PlicSlot.claim c).offset = .claim c := by
  have h1 : ¬ 0x200004 + 0x1000 * c < 0x1000 := by omega
  have h2 : ¬ 0x200004 + 0x1000 * c < 0x1080 := by omega
  have h3 : ¬ 0x200004 + 0x1000 * c < 0x2000 := by omega
  have h4 : ¬ 0x200004 + 0x1000 * c < 0x1F2000 := by omega
  have h5 : ¬ 0x200004 + 0x1000 * c < 0x200000 := by omega
  have h6 : 0x200004 + 0x1000 * c < 0x4000000 := by omega
  have h7 : ¬ (0x200004 + 0x1000 * c - 0x200000) % 0x1000 = 0 := by omega
  have h8 : (0x200004 + 0x1000 * c - 0x200000) % 0x1000 = 4 := by omega
  have h9 : (0x200004 + 0x1000 * c - 0x200000) / 0x1000 = c := by omega
  show plicSlot (0x200004 + 0x1000 * c) = _
  unfold plicSlot
  rw [if_neg h1, if_neg h2, if_neg h3, if_neg h4, if_neg h5, if_pos h6, if_neg h7, if_pos h8, h9]

theorem clintSlot_msip (harts : Nat) {h : Nat} (hh : h ≤ 4094) : clintSlot harts (ClintSlot.msip h).offset 4 = .msip h := by
  have h1 : 4 * h % 4 = 0 := by omega
  have h2 : 4 * h ≤ 0x3FF8 := by omega
  have h3 : 4 * h / 4 = h := by omega
  show clintSlot harts (4 * h) 4 = _
  unfold clintSlot
  rw [if_pos ⟨rfl, h1⟩, if_pos h2, h3]

theorem clintSlot_cmp64 (harts : Nat) {h : Nat} (hh : h ≤ 4094) : clintSlot harts (ClintSlot.cmp64 h).offset 8 = .cmp64 h := by
  have h1 : (0x4000 + 8 * h) % 8 = 0 := by omega
  have h2 : ¬ 0x4000 + 8 * h < 0x4000 := by omega
  have h3 : 0x4000 + 8 * h < 0xBFF8 := by omega
  have h4 : (0x4000 + 8 * h - 0x4000) / 8 = h := by omega
  show clintSlot harts (0x4000 + 8 * h) 8 = _
  unfold clintSlot
  rw [if_neg (by omega), if_pos ⟨rfl, h1⟩, if_neg h2, if_pos h3, h4]

theorem clintSlot_cmpLo (harts : Nat) {h : Nat} (hh : h ≤ 4094) : clintSlot harts (ClintSlot.cmpLo h).offset 4 = .cmpLo h := by
  have h1 : (0x4000 + 8 * h) % 4 = 0 := by omega
  have h2 : ¬ 0x4000 + 8 * h ≤ 0x3FF8 := by omega
  have h3 : ¬ 0x4000 + 8 * h < 0x4000 := by omega
  have h4 : 0x4000 + 8 * h < 0xBFF8 := by omega
  have h5 : (0x4000 + 8 * h) % 8 = 0 := by omega
  have h6 : (0x4000 + 8 * h - 0x4000) / 8 = h := by omega
  show clintSlot harts (0x4000 + 8 * h) 4 = _
  unfold clintSlot
  rw [if_pos ⟨rfl, h1⟩, if_neg h2, if_neg h3, if_pos h4, if_pos h5, h6]

theorem clintSlot_cmpHi (harts : Nat) {h : Nat} (hh : h ≤ 4094) : clintSlot harts (ClintSlot.cmpHi h).offset 4 = .cmpHi h := by
  have h1 : (0x4004 + 8 * h) % 4 = 0 := by omega
  have h2 : ¬ 0x4004 + 8 * h ≤ 0x3FF8 := by omega
  have h3 : ¬ 0x4004 + 8 * h < 0x4000 := by omega
  have h4 : 0x4004 + 8 * h < 0xBFF8 := by omega
  have h5 : ¬ (0x4004 + 8 * h) % 8 = 0 := by omega
  have h6 : (0x4004 + 8 * h - 0x4004) / 8 = h := by omega
  show clintSlot harts (0x4004 + 8 * h) 4 = _
  unfold clintSlot
  rw [if_pos ⟨rfl, h1⟩, if_neg h2, if_neg h3, if_pos h4, if_neg h5, h6]

/-- The register that owns a byte of the bank, by the rows of 30_encoding.md R145. -/
theorem sdhcOwner_lo (r : SdhcReg) {i : Nat} (h : i < r.len) : sdhcOwner (r.lo + i) = some (r, i) := by
  cases r <;> simp only [SdhcReg.len] at h <;> interval_cases i <;> rfl

/-! ### The decoder on the records of each format -/

theorem decodeFrame_plicLoad {off : Nat} (h : off < 2 ^ 64) (h4 : off % 4 = 0) :
    decodeFrame (loadFrame 1#8 off 4) = rowOr true (plicLoadRow (plicSlot off)) := by
  have e : (BitVec.ofNat 64 off).toNat = off := by rw [BitVec.toNat_ofNat]; exact Nat.mod_eq_of_lt h
  simp [decodeFrame, loadFrame, decodeLoad, e, plicShapeOk, h4]

theorem decodeFrame_plicStore {off : Nat} (v : Word) (h : off < 2 ^ 64) (h4 : off % 4 = 0) :
    decodeFrame (storeFrame 1#8 off 4 (v.setWidth 64)) = rowOr true (plicStoreRow v (plicSlot off)) := by
  have e : (BitVec.ofNat 64 off).toNat = off := by rw [BitVec.toNat_ofNat]; exact Nat.mod_eq_of_lt h
  have hv : v.toNat < 4294967296 := v.isLt
  have hm : v.toNat % 18446744073709551616 = v.toNat := Nat.mod_eq_of_lt (by omega)
  simp [decodeFrame, storeFrame, decodeStore, e, plicShapeOk, h4, hv, hm]

theorem decodeFrame_clintLoad {off n : Nat} (h : off < 2 ^ 64) (hn : n = 4 ∨ n = 8) :
    decodeFrame (loadFrame 2#8 off n) = rowOr true (clintLoadRow (clintSlot 0 off n)) := by
  have e : (BitVec.ofNat 64 off).toNat = off := by rw [BitVec.toNat_ofNat]; exact Nat.mod_eq_of_lt h
  rcases hn with rfl | rfl <;> simp [decodeFrame, loadFrame, decodeLoad, e]

theorem decodeFrame_clintStore8 {off : Nat} (v : DWord) (h : off < 2 ^ 64) :
    decodeFrame (storeFrame 2#8 off 8 v) = rowOr true (clintStoreRow v (clintSlot 0 off 8)) := by
  have e : (BitVec.ofNat 64 off).toNat = off := by rw [BitVec.toNat_ofNat]; exact Nat.mod_eq_of_lt h
  simp [decodeFrame, storeFrame, decodeStore, e]

theorem decodeFrame_clintStore4 {off : Nat} (v : Word) (h : off < 2 ^ 64) :
    decodeFrame (storeFrame 2#8 off 4 (v.setWidth 64)) = rowOr true (clintStoreRow (v.setWidth 64) (clintSlot 0 off 4)) := by
  have e : (BitVec.ofNat 64 off).toNat = off := by rw [BitVec.toNat_ofNat]; exact Nat.mod_eq_of_lt h
  have hv : v.toNat < 4294967296 := v.isLt
  have hm : v.toNat % 18446744073709551616 = v.toNat := Nat.mod_eq_of_lt (by omega)
  simp [decodeFrame, storeFrame, decodeStore, e, hv, hm]

theorem decodeFrame_sdhcLoad (r : SdhcReg) {i n : Nat} (hr : r ≠ .bufdata) (h : r.accessOk i n = true) :
    decodeFrame (loadFrame 3#8 (r.lo + i) n) = .ok (r.ldInstr i n) := by
  simp only [SdhcReg.accessOk, Bool.and_eq_true, decide_eq_true_eq] at h
  have hlt : r.lo + i < 2 ^ 64 := by
    have h1 : r.lo ≤ 0xFE := by cases r <;> decide
    have h2 : r.len ≤ 16 := by cases r <;> decide
    omega
  have e : (BitVec.ofNat 64 (r.lo + i)).toNat = r.lo + i := by rw [BitVec.toNat_ofNat]; exact Nat.mod_eq_of_lt hlt
  have hn : (BitVec.ofNat 8 (n - 1)).toNat + 1 = n := by
    have := of_decide_eq_true h.2
    rcases this with rfl | rfl | rfl | rfl <;> rfl
  simp [decodeFrame, loadFrame, decodeLoad, e, sdhcOwner_lo r h.1, hr, hn, h.2, rowOr, orReserved, -BitVec.toNat_ofNat]

theorem decodeFrame_sdhcStore (r : SdhcReg) {i n : Nat} (v : DWord) (hr : r ≠ .bufdata) (h : r.accessOk i n = true) :
    decodeFrame (storeFrame 3#8 (r.lo + i) n v) = .ok (r.stInstr i n v) := by
  simp only [SdhcReg.accessOk, Bool.and_eq_true, decide_eq_true_eq] at h
  have hlt : r.lo + i < 2 ^ 64 := by
    have h1 : r.lo ≤ 0xFE := by cases r <;> decide
    have h2 : r.len ≤ 16 := by cases r <;> decide
    omega
  have e : (BitVec.ofNat 64 (r.lo + i)).toNat = r.lo + i := by rw [BitVec.toNat_ofNat]; exact Nat.mod_eq_of_lt hlt
  have hn : (BitVec.ofNat 8 (n - 1)).toNat + 1 = n := by
    have := of_decide_eq_true h.2
    rcases this with rfl | rfl | rfl | rfl <;> rfl
  simp [decodeFrame, storeFrame, decodeStore, e, sdhcOwner_lo r h.1, hr, hn, h.2, rowOr, orReserved, -BitVec.toNat_ofNat]

theorem byte_fits (v : Byte) : (v.setWidth 64 : DWord).toNat < 2 ^ 8 ∧ (v.setWidth 64 : DWord).setWidth 8 = v := by
  have hv := v.isLt
  constructor
  · rw [BitVec.toNat_setWidth]; exact Nat.lt_of_le_of_lt (Nat.mod_le _ _) hv
  · simp

end Sys2Proof
end

