-- ==== Sys2Proof/Laws/State.lean ====
section
/-! SUPPORT. One lemma per field per update of the state, so that no proof unfolds a record update. -/

namespace Sys2Proof.Machine

@[simp] theorem State.respond_cfg (r : Response) (s : State) : (s.respond r).cfg = s.cfg := rfl
@[simp] theorem State.respond_bus (r : Response) (s : State) : (s.respond r).bus = s.bus := rfl
@[simp] theorem State.respond_plic (r : Response) (s : State) : (s.respond r).plic = s.plic := rfl
@[simp] theorem State.respond_clint (r : Response) (s : State) : (s.respond r).clint = s.clint := rfl
@[simp] theorem State.respond_sdhc (r : Response) (s : State) : (s.respond r).sdhc = s.sdhc := rfl
@[simp] theorem State.respond_uart (r : Response) (s : State) : (s.respond r).uart = s.uart := rfl
@[simp] theorem State.respond_counters (r : Response) (s : State) : (s.respond r).counters = s.counters := rfl
@[simp] theorem State.respond_resp (r : Response) (s : State) : (s.respond r).resp = r := rfl
@[simp] theorem State.respond_started (r : Response) (s : State) : (s.respond r).started = true := rfl
@[simp] theorem State.respond_draws (r : Response) (s : State) : (s.respond r).draws = s.draws := rfl
@[simp] theorem State.respond_requests (r : Response) (s : State) : (s.respond r).requests = s.requests := rfl

@[simp] theorem State.logNotReady_cfg (s : State) : (s.logNotReady).cfg = s.cfg := rfl
@[simp] theorem State.logNotReady_bus (s : State) : (s.logNotReady).bus = s.bus := rfl
@[simp] theorem State.logNotReady_plic (s : State) : (s.logNotReady).plic = s.plic := rfl
@[simp] theorem State.logNotReady_clint (s : State) : (s.logNotReady).clint = s.clint := rfl
@[simp] theorem State.logNotReady_sdhc (s : State) : (s.logNotReady).sdhc = s.sdhc := rfl
@[simp] theorem State.logNotReady_uart (s : State) : (s.logNotReady).uart = s.uart := rfl
@[simp] theorem State.logNotReady_counters (s : State) : (s.logNotReady).counters = { s.counters with deviceNotReady := s.counters.deviceNotReady + 1 } := rfl
@[simp] theorem State.logNotReady_resp (s : State) : (s.logNotReady).resp = s.resp := rfl
@[simp] theorem State.logNotReady_started (s : State) : (s.logNotReady).started = s.started := rfl
@[simp] theorem State.logNotReady_draws (s : State) : (s.logNotReady).draws = s.draws := rfl
@[simp] theorem State.logNotReady_requests (s : State) : (s.logNotReady).requests = s.requests := rfl

@[simp] theorem State.logCapacity_cfg (s : State) : (s.logCapacity).cfg = s.cfg := rfl
@[simp] theorem State.logCapacity_bus (s : State) : (s.logCapacity).bus = s.bus := rfl
@[simp] theorem State.logCapacity_plic (s : State) : (s.logCapacity).plic = s.plic := rfl
@[simp] theorem State.logCapacity_clint (s : State) : (s.logCapacity).clint = s.clint := rfl
@[simp] theorem State.logCapacity_sdhc (s : State) : (s.logCapacity).sdhc = s.sdhc := rfl
@[simp] theorem State.logCapacity_uart (s : State) : (s.logCapacity).uart = s.uart := rfl
@[simp] theorem State.logCapacity_counters (s : State) : (s.logCapacity).counters = { s.counters with capacityExceeded := s.counters.capacityExceeded + 1 } := rfl
@[simp] theorem State.logCapacity_resp (s : State) : (s.logCapacity).resp = s.resp := rfl
@[simp] theorem State.logCapacity_started (s : State) : (s.logCapacity).started = s.started := rfl
@[simp] theorem State.logCapacity_draws (s : State) : (s.logCapacity).draws = s.draws := rfl
@[simp] theorem State.logCapacity_requests (s : State) : (s.logCapacity).requests = s.requests := rfl

@[simp] theorem State.logMalformed_cfg (s : State) : (s.logMalformed).cfg = s.cfg := rfl
@[simp] theorem State.logMalformed_bus (s : State) : (s.logMalformed).bus = s.bus := rfl
@[simp] theorem State.logMalformed_plic (s : State) : (s.logMalformed).plic = s.plic := rfl
@[simp] theorem State.logMalformed_clint (s : State) : (s.logMalformed).clint = s.clint := rfl
@[simp] theorem State.logMalformed_sdhc (s : State) : (s.logMalformed).sdhc = s.sdhc := rfl
@[simp] theorem State.logMalformed_uart (s : State) : (s.logMalformed).uart = s.uart := rfl
@[simp] theorem State.logMalformed_counters (s : State) : (s.logMalformed).counters = { s.counters with malformedCommand := s.counters.malformedCommand + 1 } := rfl
@[simp] theorem State.logMalformed_resp (s : State) : (s.logMalformed).resp = s.resp := rfl
@[simp] theorem State.logMalformed_started (s : State) : (s.logMalformed).started = s.started := rfl
@[simp] theorem State.logMalformed_draws (s : State) : (s.logMalformed).draws = s.draws := rfl
@[simp] theorem State.logMalformed_requests (s : State) : (s.logMalformed).requests = s.requests := rfl

@[simp] theorem State.drawn_cfg (s : State) : (s.drawn).cfg = s.cfg := rfl
@[simp] theorem State.drawn_bus (s : State) : (s.drawn).bus = s.bus := rfl
@[simp] theorem State.drawn_plic (s : State) : (s.drawn).plic = s.plic := rfl
@[simp] theorem State.drawn_clint (s : State) : (s.drawn).clint = s.clint := rfl
@[simp] theorem State.drawn_sdhc (s : State) : (s.drawn).sdhc = s.sdhc := rfl
@[simp] theorem State.drawn_uart (s : State) : (s.drawn).uart = s.uart := rfl
@[simp] theorem State.drawn_counters (s : State) : (s.drawn).counters = s.counters := rfl
@[simp] theorem State.drawn_resp (s : State) : (s.drawn).resp = s.resp := rfl
@[simp] theorem State.drawn_started (s : State) : (s.drawn).started = s.started := rfl
@[simp] theorem State.drawn_draws (s : State) : (s.drawn).draws = s.draws + 1 := rfl
@[simp] theorem State.drawn_requests (s : State) : (s.drawn).requests = s.requests := rfl

@[simp] theorem State.setPlic_cfg (x : Plic) (s : State) : (s.setPlic x).cfg = s.cfg := rfl
@[simp] theorem State.setPlic_bus (x : Plic) (s : State) : (s.setPlic x).bus = s.bus := rfl
@[simp] theorem State.setPlic_plic (x : Plic) (s : State) : (s.setPlic x).plic = x := rfl
@[simp] theorem State.setPlic_clint (x : Plic) (s : State) : (s.setPlic x).clint = s.clint := rfl
@[simp] theorem State.setPlic_sdhc (x : Plic) (s : State) : (s.setPlic x).sdhc = s.sdhc := rfl
@[simp] theorem State.setPlic_uart (x : Plic) (s : State) : (s.setPlic x).uart = s.uart := rfl
@[simp] theorem State.setPlic_counters (x : Plic) (s : State) : (s.setPlic x).counters = s.counters := rfl
@[simp] theorem State.setPlic_resp (x : Plic) (s : State) : (s.setPlic x).resp = s.resp := rfl
@[simp] theorem State.setPlic_started (x : Plic) (s : State) : (s.setPlic x).started = s.started := rfl
@[simp] theorem State.setPlic_draws (x : Plic) (s : State) : (s.setPlic x).draws = s.draws := rfl
@[simp] theorem State.setPlic_requests (x : Plic) (s : State) : (s.setPlic x).requests = s.requests := rfl

@[simp] theorem State.setClint_cfg (x : Clint) (s : State) : (s.setClint x).cfg = s.cfg := rfl
@[simp] theorem State.setClint_bus (x : Clint) (s : State) : (s.setClint x).bus = s.bus := rfl
@[simp] theorem State.setClint_plic (x : Clint) (s : State) : (s.setClint x).plic = s.plic := rfl
@[simp] theorem State.setClint_clint (x : Clint) (s : State) : (s.setClint x).clint = x := rfl
@[simp] theorem State.setClint_sdhc (x : Clint) (s : State) : (s.setClint x).sdhc = s.sdhc := rfl
@[simp] theorem State.setClint_uart (x : Clint) (s : State) : (s.setClint x).uart = s.uart := rfl
@[simp] theorem State.setClint_counters (x : Clint) (s : State) : (s.setClint x).counters = s.counters := rfl
@[simp] theorem State.setClint_resp (x : Clint) (s : State) : (s.setClint x).resp = s.resp := rfl
@[simp] theorem State.setClint_started (x : Clint) (s : State) : (s.setClint x).started = s.started := rfl
@[simp] theorem State.setClint_draws (x : Clint) (s : State) : (s.setClint x).draws = s.draws := rfl
@[simp] theorem State.setClint_requests (x : Clint) (s : State) : (s.setClint x).requests = s.requests := rfl

@[simp] theorem State.setSdhc_cfg (x : Sdhc) (s : State) : (s.setSdhc x).cfg = s.cfg := rfl
@[simp] theorem State.setSdhc_bus (x : Sdhc) (s : State) : (s.setSdhc x).bus = s.bus := rfl
@[simp] theorem State.setSdhc_plic (x : Sdhc) (s : State) : (s.setSdhc x).plic = s.plic := rfl
@[simp] theorem State.setSdhc_clint (x : Sdhc) (s : State) : (s.setSdhc x).clint = s.clint := rfl
@[simp] theorem State.setSdhc_sdhc (x : Sdhc) (s : State) : (s.setSdhc x).sdhc = x := rfl
@[simp] theorem State.setSdhc_uart (x : Sdhc) (s : State) : (s.setSdhc x).uart = s.uart := rfl
@[simp] theorem State.setSdhc_counters (x : Sdhc) (s : State) : (s.setSdhc x).counters = s.counters := rfl
@[simp] theorem State.setSdhc_resp (x : Sdhc) (s : State) : (s.setSdhc x).resp = s.resp := rfl
@[simp] theorem State.setSdhc_started (x : Sdhc) (s : State) : (s.setSdhc x).started = s.started := rfl
@[simp] theorem State.setSdhc_draws (x : Sdhc) (s : State) : (s.setSdhc x).draws = s.draws := rfl
@[simp] theorem State.setSdhc_requests (x : Sdhc) (s : State) : (s.setSdhc x).requests = s.requests := rfl

@[simp] theorem State.setUart_cfg (x : Uart) (s : State) : (s.setUart x).cfg = s.cfg := rfl
@[simp] theorem State.setUart_bus (x : Uart) (s : State) : (s.setUart x).bus = s.bus := rfl
@[simp] theorem State.setUart_plic (x : Uart) (s : State) : (s.setUart x).plic = s.plic := rfl
@[simp] theorem State.setUart_clint (x : Uart) (s : State) : (s.setUart x).clint = s.clint := rfl
@[simp] theorem State.setUart_sdhc (x : Uart) (s : State) : (s.setUart x).sdhc = s.sdhc := rfl
@[simp] theorem State.setUart_uart (x : Uart) (s : State) : (s.setUart x).uart = x := rfl
@[simp] theorem State.setUart_counters (x : Uart) (s : State) : (s.setUart x).counters = s.counters := rfl
@[simp] theorem State.setUart_resp (x : Uart) (s : State) : (s.setUart x).resp = s.resp := rfl
@[simp] theorem State.setUart_started (x : Uart) (s : State) : (s.setUart x).started = s.started := rfl
@[simp] theorem State.setUart_draws (x : Uart) (s : State) : (s.setUart x).draws = s.draws := rfl
@[simp] theorem State.setUart_requests (x : Uart) (s : State) : (s.setUart x).requests = s.requests := rfl

@[simp] theorem State.setBus_cfg (x : List (Nat × List Mapping)) (s : State) : (s.setBus x).cfg = s.cfg := rfl
@[simp] theorem State.setBus_bus (x : List (Nat × List Mapping)) (s : State) : (s.setBus x).bus = x := rfl
@[simp] theorem State.setBus_plic (x : List (Nat × List Mapping)) (s : State) : (s.setBus x).plic = s.plic := rfl
@[simp] theorem State.setBus_clint (x : List (Nat × List Mapping)) (s : State) : (s.setBus x).clint = s.clint := rfl
@[simp] theorem State.setBus_sdhc (x : List (Nat × List Mapping)) (s : State) : (s.setBus x).sdhc = s.sdhc := rfl
@[simp] theorem State.setBus_uart (x : List (Nat × List Mapping)) (s : State) : (s.setBus x).uart = s.uart := rfl
@[simp] theorem State.setBus_counters (x : List (Nat × List Mapping)) (s : State) : (s.setBus x).counters = s.counters := rfl
@[simp] theorem State.setBus_resp (x : List (Nat × List Mapping)) (s : State) : (s.setBus x).resp = s.resp := rfl
@[simp] theorem State.setBus_started (x : List (Nat × List Mapping)) (s : State) : (s.setBus x).started = s.started := rfl
@[simp] theorem State.setBus_draws (x : List (Nat × List Mapping)) (s : State) : (s.setBus x).draws = s.draws := rfl
@[simp] theorem State.setBus_requests (x : List (Nat × List Mapping)) (s : State) : (s.setBus x).requests = s.requests := rfl

@[simp] theorem State.raiseIrq_cfg (k : Nat) (l : Bool) (s : State) : (s.raiseIrq k l).cfg = s.cfg := rfl
@[simp] theorem State.raiseIrq_bus (k : Nat) (l : Bool) (s : State) : (s.raiseIrq k l).bus = s.bus := rfl
@[simp] theorem State.raiseIrq_plic (k : Nat) (l : Bool) (s : State) : (s.raiseIrq k l).plic = s.plic.raise s.cfg k l := rfl
@[simp] theorem State.raiseIrq_clint (k : Nat) (l : Bool) (s : State) : (s.raiseIrq k l).clint = s.clint := rfl
@[simp] theorem State.raiseIrq_sdhc (k : Nat) (l : Bool) (s : State) : (s.raiseIrq k l).sdhc = s.sdhc := rfl
@[simp] theorem State.raiseIrq_uart (k : Nat) (l : Bool) (s : State) : (s.raiseIrq k l).uart = s.uart := rfl
@[simp] theorem State.raiseIrq_counters (k : Nat) (l : Bool) (s : State) : (s.raiseIrq k l).counters = s.counters := rfl
@[simp] theorem State.raiseIrq_resp (k : Nat) (l : Bool) (s : State) : (s.raiseIrq k l).resp = s.resp := rfl
@[simp] theorem State.raiseIrq_started (k : Nat) (l : Bool) (s : State) : (s.raiseIrq k l).started = s.started := rfl
@[simp] theorem State.raiseIrq_draws (k : Nat) (l : Bool) (s : State) : (s.raiseIrq k l).draws = s.draws := rfl
@[simp] theorem State.raiseIrq_requests (k : Nat) (l : Bool) (s : State) : (s.raiseIrq k l).requests = s.requests := rfl

@[simp] theorem State.syncAll_cfg (s : State) : (s.syncAll).cfg = s.cfg := rfl
@[simp] theorem State.syncAll_bus (s : State) : (s.syncAll).bus = s.bus := rfl
@[simp] theorem State.syncAll_plic (s : State) : (s.syncAll).plic = s.plic := rfl
@[simp] theorem State.syncAll_clint (s : State) : (s.syncAll).clint = s.clint.syncAll s.cfg := rfl
@[simp] theorem State.syncAll_sdhc (s : State) : (s.syncAll).sdhc = s.sdhc := rfl
@[simp] theorem State.syncAll_uart (s : State) : (s.syncAll).uart = s.uart := rfl
@[simp] theorem State.syncAll_counters (s : State) : (s.syncAll).counters = s.counters := rfl
@[simp] theorem State.syncAll_resp (s : State) : (s.syncAll).resp = s.resp := rfl
@[simp] theorem State.syncAll_started (s : State) : (s.syncAll).started = s.started := rfl
@[simp] theorem State.syncAll_draws (s : State) : (s.syncAll).draws = s.draws := rfl
@[simp] theorem State.syncAll_requests (s : State) : (s.syncAll).requests = s.requests := rfl

@[simp] theorem State.rtRefresh_cfg (s : State) : (s.rtRefresh).cfg = s.cfg := by
  rfl
@[simp] theorem State.rtRefresh_bus (s : State) : (s.rtRefresh).bus = s.bus := by
  rfl
@[simp] theorem State.rtRefresh_plic (s : State) : (s.rtRefresh).plic = s.plic := by
  rfl
@[simp] theorem State.rtRefresh_sdhc (s : State) : (s.rtRefresh).sdhc = s.sdhc := by
  rfl
@[simp] theorem State.rtRefresh_uart (s : State) : (s.rtRefresh).uart = s.uart := by
  rfl
@[simp] theorem State.rtRefresh_counters (s : State) : (s.rtRefresh).counters = s.counters := by
  rfl
@[simp] theorem State.rtRefresh_resp (s : State) : (s.rtRefresh).resp = s.resp := by
  rfl
@[simp] theorem State.rtRefresh_started (s : State) : (s.rtRefresh).started = s.started := by
  rfl
@[simp] theorem State.rtRefresh_requests (s : State) : (s.rtRefresh).requests = s.requests := by
  rfl

@[simp] theorem State.refreshTime_cfg (s : State) : (s.refreshTime).cfg = s.cfg := by
  unfold State.refreshTime; split <;> rfl
@[simp] theorem State.refreshTime_bus (s : State) : (s.refreshTime).bus = s.bus := by
  unfold State.refreshTime; split <;> rfl
@[simp] theorem State.refreshTime_plic (s : State) : (s.refreshTime).plic = s.plic := by
  unfold State.refreshTime; split <;> rfl
@[simp] theorem State.refreshTime_sdhc (s : State) : (s.refreshTime).sdhc = s.sdhc := by
  unfold State.refreshTime; split <;> rfl
@[simp] theorem State.refreshTime_uart (s : State) : (s.refreshTime).uart = s.uart := by
  unfold State.refreshTime; split <;> rfl
@[simp] theorem State.refreshTime_counters (s : State) : (s.refreshTime).counters = s.counters := by
  unfold State.refreshTime; split <;> rfl
@[simp] theorem State.refreshTime_resp (s : State) : (s.refreshTime).resp = s.resp := by
  unfold State.refreshTime; split <;> rfl
@[simp] theorem State.refreshTime_started (s : State) : (s.refreshTime).started = s.started := by
  unfold State.refreshTime; split <;> rfl
@[simp] theorem State.refreshTime_requests (s : State) : (s.refreshTime).requests = s.requests := by
  unfold State.refreshTime; split <;> rfl

@[simp] theorem State.afterCmp_cfg (h : Nat) (s : State) : (s.afterCmp h).cfg = s.cfg := by
  unfold State.afterCmp; split <;> rfl
@[simp] theorem State.afterCmp_bus (h : Nat) (s : State) : (s.afterCmp h).bus = s.bus := by
  unfold State.afterCmp; split <;> rfl
@[simp] theorem State.afterCmp_plic (h : Nat) (s : State) : (s.afterCmp h).plic = s.plic := by
  unfold State.afterCmp; split <;> rfl
@[simp] theorem State.afterCmp_sdhc (h : Nat) (s : State) : (s.afterCmp h).sdhc = s.sdhc := by
  unfold State.afterCmp; split <;> rfl
@[simp] theorem State.afterCmp_uart (h : Nat) (s : State) : (s.afterCmp h).uart = s.uart := by
  unfold State.afterCmp; split <;> rfl
@[simp] theorem State.afterCmp_counters (h : Nat) (s : State) : (s.afterCmp h).counters = s.counters := by
  unfold State.afterCmp; split <;> rfl
@[simp] theorem State.afterCmp_resp (h : Nat) (s : State) : (s.afterCmp h).resp = s.resp := by
  unfold State.afterCmp; split <;> rfl
@[simp] theorem State.afterCmp_started (h : Nat) (s : State) : (s.afterCmp h).started = s.started := by
  unfold State.afterCmp; split <;> rfl
@[simp] theorem State.afterCmp_requests (h : Nat) (s : State) : (s.afterCmp h).requests = s.requests := by
  unfold State.afterCmp; split <;> rfl

@[simp] theorem State.writeCmp_cfg (h : Nat) (v : DWord) (s : State) : (s.writeCmp h v).cfg = s.cfg := by
  simp [State.writeCmp]
@[simp] theorem State.writeCmp_bus (h : Nat) (v : DWord) (s : State) : (s.writeCmp h v).bus = s.bus := by
  simp [State.writeCmp]
@[simp] theorem State.writeCmp_plic (h : Nat) (v : DWord) (s : State) : (s.writeCmp h v).plic = s.plic := by
  simp [State.writeCmp]
@[simp] theorem State.writeCmp_sdhc (h : Nat) (v : DWord) (s : State) : (s.writeCmp h v).sdhc = s.sdhc := by
  simp [State.writeCmp]
@[simp] theorem State.writeCmp_uart (h : Nat) (v : DWord) (s : State) : (s.writeCmp h v).uart = s.uart := by
  simp [State.writeCmp]
@[simp] theorem State.writeCmp_counters (h : Nat) (v : DWord) (s : State) : (s.writeCmp h v).counters = s.counters := by
  simp [State.writeCmp]
@[simp] theorem State.writeCmp_resp (h : Nat) (v : DWord) (s : State) : (s.writeCmp h v).resp = s.resp := by
  simp [State.writeCmp]
@[simp] theorem State.writeCmp_started (h : Nat) (v : DWord) (s : State) : (s.writeCmp h v).started = s.started := by
  simp [State.writeCmp]
@[simp] theorem State.writeCmp_requests (h : Nat) (v : DWord) (s : State) : (s.writeCmp h v).requests = s.requests := by
  simp [State.writeCmp]

@[simp] theorem State.writeTime_cfg (v : DWord) (s : State) : (s.writeTime v).cfg = s.cfg := by
  unfold State.writeTime; split <;> rfl
@[simp] theorem State.writeTime_bus (v : DWord) (s : State) : (s.writeTime v).bus = s.bus := by
  unfold State.writeTime; split <;> rfl
@[simp] theorem State.writeTime_plic (v : DWord) (s : State) : (s.writeTime v).plic = s.plic := by
  unfold State.writeTime; split <;> rfl
@[simp] theorem State.writeTime_sdhc (v : DWord) (s : State) : (s.writeTime v).sdhc = s.sdhc := by
  unfold State.writeTime; split <;> rfl
@[simp] theorem State.writeTime_uart (v : DWord) (s : State) : (s.writeTime v).uart = s.uart := by
  unfold State.writeTime; split <;> rfl
@[simp] theorem State.writeTime_counters (v : DWord) (s : State) : (s.writeTime v).counters = s.counters := by
  unfold State.writeTime; split <;> rfl
@[simp] theorem State.writeTime_resp (v : DWord) (s : State) : (s.writeTime v).resp = s.resp := by
  unfold State.writeTime; split <;> rfl
@[simp] theorem State.writeTime_started (v : DWord) (s : State) : (s.writeTime v).started = s.started := by
  unfold State.writeTime; split <;> rfl
@[simp] theorem State.writeTime_draws (v : DWord) (s : State) : (s.writeTime v).draws = s.draws := by
  unfold State.writeTime; split <;> rfl
@[simp] theorem State.writeTime_requests (v : DWord) (s : State) : (s.writeTime v).requests = s.requests := by
  unfold State.writeTime; split <;> rfl

@[simp] theorem State.recomputeLine_cfg (s : State) : (s.recomputeLine).cfg = s.cfg := by
  unfold State.recomputeLine; dsimp only; split <;> rfl
@[simp] theorem State.recomputeLine_bus (s : State) : (s.recomputeLine).bus = s.bus := by
  unfold State.recomputeLine; dsimp only; split <;> rfl
@[simp] theorem State.recomputeLine_clint (s : State) : (s.recomputeLine).clint = s.clint := by
  unfold State.recomputeLine; dsimp only; split <;> rfl
@[simp] theorem State.recomputeLine_uart (s : State) : (s.recomputeLine).uart = s.uart := by
  unfold State.recomputeLine; dsimp only; split <;> rfl
@[simp] theorem State.recomputeLine_counters (s : State) : (s.recomputeLine).counters = s.counters := by
  unfold State.recomputeLine; dsimp only; split <;> rfl
@[simp] theorem State.recomputeLine_resp (s : State) : (s.recomputeLine).resp = s.resp := by
  unfold State.recomputeLine; dsimp only; split <;> rfl
@[simp] theorem State.recomputeLine_started (s : State) : (s.recomputeLine).started = s.started := by
  unfold State.recomputeLine; dsimp only; split <;> rfl
@[simp] theorem State.recomputeLine_draws (s : State) : (s.recomputeLine).draws = s.draws := by
  unfold State.recomputeLine; dsimp only; split <;> rfl
@[simp] theorem State.recomputeLine_requests (s : State) : (s.recomputeLine).requests = s.requests := by
  unfold State.recomputeLine; dsimp only; split <;> rfl

@[simp] theorem State.checkInt_cfg (s : State) : (s.checkInt).cfg = s.cfg := by
  unfold State.checkInt; dsimp only; split <;> rfl
@[simp] theorem State.checkInt_bus (s : State) : (s.checkInt).bus = s.bus := by
  unfold State.checkInt; dsimp only; split <;> rfl
@[simp] theorem State.checkInt_clint (s : State) : (s.checkInt).clint = s.clint := by
  unfold State.checkInt; dsimp only; split <;> rfl
@[simp] theorem State.checkInt_sdhc (s : State) : (s.checkInt).sdhc = s.sdhc := by
  unfold State.checkInt; dsimp only; split <;> rfl
@[simp] theorem State.checkInt_counters (s : State) : (s.checkInt).counters = s.counters := by
  unfold State.checkInt; dsimp only; split <;> rfl
@[simp] theorem State.checkInt_resp (s : State) : (s.checkInt).resp = s.resp := by
  unfold State.checkInt; dsimp only; split <;> rfl
@[simp] theorem State.checkInt_started (s : State) : (s.checkInt).started = s.started := by
  unfold State.checkInt; dsimp only; split <;> rfl
@[simp] theorem State.checkInt_draws (s : State) : (s.checkInt).draws = s.draws := by
  unfold State.checkInt; dsimp only; split <;> rfl
@[simp] theorem State.checkInt_requests (s : State) : (s.checkInt).requests = s.requests := by
  unfold State.checkInt; dsimp only; split <;> rfl

@[simp] theorem State.endOfBlock_cfg (s : State) : (s.endOfBlock).cfg = s.cfg := by
  unfold State.endOfBlock; dsimp only; split <;> [skip; split] <;> rfl
@[simp] theorem State.endOfBlock_bus (s : State) : (s.endOfBlock).bus = s.bus := by
  unfold State.endOfBlock; dsimp only; split <;> [skip; split] <;> rfl
@[simp] theorem State.endOfBlock_plic (s : State) : (s.endOfBlock).plic = s.plic := by
  unfold State.endOfBlock; dsimp only; split <;> [skip; split] <;> rfl
@[simp] theorem State.endOfBlock_clint (s : State) : (s.endOfBlock).clint = s.clint := by
  unfold State.endOfBlock; dsimp only; split <;> [skip; split] <;> rfl
@[simp] theorem State.endOfBlock_uart (s : State) : (s.endOfBlock).uart = s.uart := by
  unfold State.endOfBlock; dsimp only; split <;> [skip; split] <;> rfl
@[simp] theorem State.endOfBlock_resp (s : State) : (s.endOfBlock).resp = s.resp := by
  unfold State.endOfBlock; dsimp only; split <;> [skip; split] <;> rfl
@[simp] theorem State.endOfBlock_started (s : State) : (s.endOfBlock).started = s.started := by
  unfold State.endOfBlock; dsimp only; split <;> [skip; split] <;> rfl
@[simp] theorem State.endOfBlock_draws (s : State) : (s.endOfBlock).draws = s.draws := by
  unfold State.endOfBlock; dsimp only; split <;> [skip; split] <;> rfl
@[simp] theorem State.endOfBlock_requests (s : State) : (s.endOfBlock).requests = s.requests := by
  unfold State.endOfBlock; dsimp only; split <;> [skip; split] <;> rfl

@[simp] theorem State.storeBytes_cfg (off n : Nat) (v : DWord) (s : State) : (s.storeBytes off n v).cfg = s.cfg := by
  rfl
@[simp] theorem State.storeBytes_bus (off n : Nat) (v : DWord) (s : State) : (s.storeBytes off n v).bus = s.bus := by
  rfl
@[simp] theorem State.storeBytes_plic (off n : Nat) (v : DWord) (s : State) : (s.storeBytes off n v).plic = s.plic := by
  rfl
@[simp] theorem State.storeBytes_clint (off n : Nat) (v : DWord) (s : State) : (s.storeBytes off n v).clint = s.clint := by
  rfl
@[simp] theorem State.storeBytes_uart (off n : Nat) (v : DWord) (s : State) : (s.storeBytes off n v).uart = s.uart := by
  rfl
@[simp] theorem State.storeBytes_counters (off n : Nat) (v : DWord) (s : State) : (s.storeBytes off n v).counters = s.counters := by
  rfl
@[simp] theorem State.storeBytes_resp (off n : Nat) (v : DWord) (s : State) : (s.storeBytes off n v).resp = s.resp := by
  rfl
@[simp] theorem State.storeBytes_started (off n : Nat) (v : DWord) (s : State) : (s.storeBytes off n v).started = s.started := by
  rfl
@[simp] theorem State.storeBytes_draws (off n : Nat) (v : DWord) (s : State) : (s.storeBytes off n v).draws = s.draws := by
  rfl
@[simp] theorem State.storeBytes_requests (off n : Nat) (v : DWord) (s : State) : (s.storeBytes off n v).requests = s.requests := by
  rfl

@[simp] theorem State.recomputeLine_sdhc (s : State) : s.recomputeLine.sdhc = { s.sdhc with line := s.sdhc.level } := by
  unfold State.recomputeLine; dsimp only; split <;> rfl

@[simp] theorem State.checkInt_uart (s : State) : s.checkInt.uart = { s.uart with line := s.uart.level s.cfg } := by
  unfold State.checkInt; dsimp only; split <;> rfl

/-- What the SDHC's recomputation does to the PLIC: nothing, or one `raise_irq` at the line's level. -/
theorem State.recomputeLine_plic (s : State) :
    s.recomputeLine.plic =
      if s.sdhc.level || decide (s.sdhc.level ≠ s.sdhc.line) then s.plic.raise s.cfg s.cfg.sdhcIrq s.sdhc.level else s.plic := by
  unfold State.recomputeLine; dsimp only; split <;> rfl

/-- What the UART's `check_int()` does to the PLIC: nothing, or one `raise_irq` at the line's level. -/
theorem State.checkInt_plic (s : State) :
    s.checkInt.plic =
      if s.uart.level s.cfg || decide (s.uart.level s.cfg ≠ s.uart.line) then s.plic.raise s.cfg s.cfg.uartIrq (s.uart.level s.cfg)
      else s.plic := by
  unfold State.checkInt; dsimp only; split <;> rfl

/-- Two states with equal fields are equal. -/
theorem State.eq_of_fields {s t : State} (hcfg : s.cfg = t.cfg) (hbus : s.bus = t.bus) (hplic : s.plic = t.plic)
    (hclint : s.clint = t.clint) (hsdhc : s.sdhc = t.sdhc) (huart : s.uart = t.uart) (hcounters : s.counters = t.counters)
    (hresp : s.resp = t.resp) (hstarted : s.started = t.started) (hdraws : s.draws = t.draws)
    (hrequests : s.requests = t.requests) : s = t := by
  cases s; cases t; simp_all

end Sys2Proof.Machine
end

