-- ==== Sys2Proof/Laws/Ops.lean ====
section
/-! SUPPORT. The laws of the shared operations: canonical lists, bounded iteration, byte copies, and the answers. -/

namespace Sys2Proof.Machine

/-! ### Canonical lists -/

section Cells

variable {β : Type} (d : β)

@[simp] theorem cellGet_nil (k : Nat) : cellGet d [] k = d := rfl

theorem cellGet_cons (e : Nat × β) (m : List (Nat × β)) (k : Nat) :
    cellGet d (e :: m) k = if e.1 = k then e.2 else cellGet d m k := rfl

theorem cellGet_erase (m : List (Nat × β)) (k j : Nat) :
    cellGet d (cellErase k m) j = if j = k then d else cellGet d m j := by
  induction m with
  | nil => simp [cellErase]
  | cons e m ih =>
    by_cases hk : e.1 = k
    · have : cellErase k (e :: m) = cellErase k m := by simp [cellErase, hk]
      rw [this, ih, cellGet_cons]
      by_cases hj : j = k
      · simp [hj]
      · have : ¬ e.1 = j := by omega
        simp [hj, this]
    · have : cellErase k (e :: m) = e :: cellErase k m := by simp [cellErase, hk]
      rw [this, cellGet_cons, cellGet_cons, ih]
      by_cases hj : e.1 = j
      · have : ¬ j = k := by omega
        simp [hj, this]
      · simp [hj]

theorem cellGet_insert (m : List (Nat × β)) (k j : Nat) (v : β) (h : cellGet d m k = d) (hk : ∀ e ∈ m, e.1 ≠ k) :
    cellGet d (cellInsert k v m) j = if j = k then v else cellGet d m j := by
  induction m with
  | nil =>
    simp only [cellInsert, cellGet_cons, cellGet_nil]
    by_cases hj : k = j
    · simp [hj]
    · have : ¬ j = k := by omega
      simp [hj, this]
  | cons e m ih =>
    have hek : e.1 ≠ k := hk e (by simp)
    unfold cellInsert
    by_cases hlt : k < e.1
    · rw [if_pos hlt, cellGet_cons]
      by_cases hj : k = j
      · simp [hj]
      · have : ¬ j = k := by omega
        simp [hj, this]
    · rw [if_neg hlt, cellGet_cons, cellGet_cons]
      have h' : cellGet d m k = d := by
        rw [cellGet_cons, if_neg hek] at h; exact h
      rw [ih h' (fun e' he' => hk e' (by simp [he']))]
      by_cases hj : e.1 = j
      · have : ¬ j = k := by omega
        simp [hj, this]
      · simp [hj]

theorem cellErase_ne (m : List (Nat × β)) (k : Nat) : ∀ e ∈ cellErase k m, e.1 ≠ k := by
  intro e he
  simp [cellErase] at he
  exact he.2

variable [DecidableEq β]

/-- A read after a write: the value written at that index, and every other index as before. -/
theorem cellGet_set (m : List (Nat × β)) (k j : Nat) (v : β) :
    cellGet d (cellSet d k v m) j = if j = k then v else cellGet d m j := by
  unfold cellSet
  by_cases hv : v = d
  · rw [if_pos hv, cellGet_erase, hv]
  · rw [if_neg hv, cellGet_insert d _ _ _ _ (by rw [cellGet_erase]; simp) (cellErase_ne m k), cellGet_erase]
    by_cases hj : j = k <;> simp [hj]

@[simp] theorem cellGet_set_same (m : List (Nat × β)) (k : Nat) (v : β) : cellGet d (cellSet d k v m) k = v := by
  simp [cellGet_set]

theorem cellGet_set_other (m : List (Nat × β)) (k j : Nat) (v : β) (h : j ≠ k) :
    cellGet d (cellSet d k v m) j = cellGet d m j := by
  simp [cellGet_set, h]

theorem cellsWf_cons (e : Nat × β) (m : List (Nat × β)) :
    cellsWf d (e :: m) = true ↔ e.2 ≠ d ∧ (∀ x ∈ m, e.1 < x.1) ∧ cellsWf d m = true := by
  simp [cellsWf, and_assoc]

theorem cellsWf_erase (m : List (Nat × β)) (k : Nat) (h : cellsWf d m = true) : cellsWf d (cellErase k m) = true := by
  induction m with
  | nil => simpa [cellErase] using h
  | cons e m ih =>
    rw [cellsWf_cons] at h
    by_cases hk : e.1 = k
    · have : cellErase k (e :: m) = cellErase k m := by simp [cellErase, hk]
      rw [this]; exact ih h.2.2
    · have : cellErase k (e :: m) = e :: cellErase k m := by simp [cellErase, hk]
      rw [this, cellsWf_cons]
      refine ⟨h.1, fun x hx => h.2.1 x ?_, ih h.2.2⟩
      simp [cellErase] at hx
      exact hx.1

theorem mem_cellInsert (m : List (Nat × β)) (k : Nat) (v : β) (x : Nat × β) :
    x ∈ cellInsert k v m → x = (k, v) ∨ x ∈ m := by
  induction m with
  | nil => simp [cellInsert]
  | cons e m ih =>
    unfold cellInsert
    split
    · simp
    · simp only [List.mem_cons]
      rintro (h | h)
      · exact .inr (.inl h)
      · rcases ih h with h | h
        · exact .inl h
        · exact .inr (.inr h)

theorem cellsWf_insert (m : List (Nat × β)) (k : Nat) (v : β) (h : cellsWf d m = true) (hv : v ≠ d)
    (hk : ∀ e ∈ m, e.1 ≠ k) : cellsWf d (cellInsert k v m) = true := by
  induction m with
  | nil => simp [cellInsert, cellsWf, hv]
  | cons e m ih =>
    have h' := (cellsWf_cons d e m).1 h
    have hek : e.1 ≠ k := hk e (by simp)
    unfold cellInsert
    split
    · rename_i hlt
      rw [cellsWf_cons]
      refine ⟨hv, fun x hx => ?_, h⟩
      rcases List.mem_cons.1 hx with rfl | hx
      · exact hlt
      · have h2 := h'.2.1 x hx
        simp only at h2 ⊢
        omega
    · rename_i hlt
      rw [cellsWf_cons]
      refine ⟨h'.1, fun x hx => ?_, ih h'.2.2 (fun e' he' => hk e' (by simp [he']))⟩
      rcases mem_cellInsert m k v x hx with rfl | hx
      · simp only; omega
      · exact h'.2.1 x hx

/-- Every write keeps the canonical form. -/
theorem cellsWf_set (m : List (Nat × β)) (k : Nat) (v : β) (h : cellsWf d m = true) : cellsWf d (cellSet d k v m) = true := by
  unfold cellSet
  split
  · exact cellsWf_erase d m k h
  · exact cellsWf_insert d _ k v (cellsWf_erase d m k h) ‹_› (cellErase_ne m k)

end Cells

/-- Equal canonical lists: two lists in canonical form that read the same everywhere are the same list. -/
theorem cells_ext {β : Type} [DecidableEq β] (d : β) (m m' : List (Nat × β)) (h : cellsWf d m = true) (h' : cellsWf d m' = true)
    (hget : ∀ k, cellGet d m k = cellGet d m' k) : m = m' := by
  have low : ∀ (l : List (Nat × β)) (k : Nat), (∀ x ∈ l, k < x.1) → cellGet d l k = d := by
    intro l
    induction l with
    | nil => intro k _; rfl
    | cons e l ih =>
      intro k hk
      have h1 : k < e.1 := hk e (by simp)
      rw [cellGet_cons, if_neg (by omega)]
      exact ih k (fun x hx => hk x (by simp [hx]))
  induction m generalizing m' with
  | nil =>
    cases m' with
    | nil => rfl
    | cons e m' =>
      have := hget e.1
      rw [cellGet_cons, if_pos rfl, cellGet_nil] at this
      exact absurd this.symm ((cellsWf_cons d e m').1 h').1
  | cons e m ih =>
    have hw := (cellsWf_cons d e m).1 h
    cases m' with
    | nil =>
      have := hget e.1
      rw [cellGet_cons, if_pos rfl, cellGet_nil] at this
      exact absurd this hw.1
    | cons e' m' =>
      have hw' := (cellsWf_cons d e' m').1 h'
      have hkey : e.1 = e'.1 := by
        rcases Nat.lt_trichotomy e.1 e'.1 with hlt | heq | hgt
        · have := hget e.1
          rw [cellGet_cons, if_pos rfl, low (e' :: m') e.1] at this
          · exact absurd this hw.1
          · intro x hx
            rcases List.mem_cons.1 hx with rfl | hx
            · exact hlt
            · have := hw'.2.1 x hx; omega
        · exact heq
        · have := hget e'.1
          rw [cellGet_cons _ e', if_pos rfl, low (e :: m) e'.1] at this
          · exact absurd this.symm hw'.1
          · intro x hx
            rcases List.mem_cons.1 hx with rfl | hx
            · exact hgt
            · have := hw.2.1 x hx; omega
      have hval : e.2 = e'.2 := by
        have := hget e.1
        rwa [cellGet_cons, if_pos rfl, cellGet_cons, if_pos hkey.symm] at this
      have heq : e = e' := Prod.ext hkey hval
      subst heq
      congr 1
      refine ih m' hw.2.2 hw'.2.2 (fun k => ?_)
      by_cases hk : e.1 = k
      · subst hk
        rw [low m e.1 hw.2.1, low m' e.1 hw'.2.1]
      · have := hget k
        rwa [cellGet_cons, if_neg hk, cellGet_cons, if_neg hk] at this

/-! ### Byte memories -/

theorem readByte_writeByte (m : List Host.Cell) (a b : Nat) (v : Byte) :
    readByte (writeByte a v m) b = if b = a then v else readByte m b := cellGet_set _ m a b v

@[simp] theorem readByte_writeByte_same (m : List Host.Cell) (a : Nat) (v : Byte) : readByte (writeByte a v m) a = v :=
  cellGet_set_same _ m a v

theorem writeByte_wf (m : List Host.Cell) (a : Nat) (v : Byte) (h : Memory.wf m = true) : Memory.wf (writeByte a v m) = true :=
  cellsWf_set _ m a v h

/-! ### Bounded iteration -/

@[simp] theorem loopTo_zero {α : Type} (f : Nat → α → α) (a : α) : loopTo f 0 a = a := rfl

theorem loopTo_succ {α : Type} (f : Nat → α → α) (n : Nat) (a : α) : loopTo f (n + 1) a = f n (loopTo f n a) := rfl

/-- What each round keeps, the whole iteration keeps. -/
theorem loopTo_keeps {α : Type} (P : α → Prop) (f : Nat → α → α) (n : Nat) (a : α) (h : P a) (hf : ∀ k b, P b → P (f k b)) :
    P (loopTo f n a) := by
  induction n with
  | zero => exact h
  | succ n ih => exact hf n _ ih

/-- Writing entry `c` at round `c`: the entries below the bound are the ones written, the others are as before. -/
theorem cellGet_loop {β : Type} [DecidableEq β] (d : β) (f : Nat → β) (n : Nat) (m : List (Nat × β)) (j : Nat) :
    cellGet d (loopTo (fun c m => cellSet d c (f c) m) n m) j = if j < n then f j else cellGet d m j := by
  induction n with
  | zero => simp
  | succ n ih =>
    rw [loopTo_succ, cellGet_set, ih]
    by_cases h : j = n
    · simp [h]
    · by_cases h' : j < n
      · have : j < n + 1 := by omega
        simp [h, h', this]
      · have : ¬ j < n + 1 := by omega
        simp [h, h', this]

theorem cellsWf_loop {β : Type} [DecidableEq β] (d : β) (f : Nat → β) (n : Nat) (m : List (Nat × β)) (h : cellsWf d m = true) :
    cellsWf d (loopTo (fun c m => cellSet d c (f c) m) n m) = true :=
  loopTo_keeps (fun m => cellsWf d m = true) _ n m h (fun c m hm => cellsWf_set d m c (f c) hm)

/-- A byte copy: the target bytes are the source's, every other byte is as before. -/
theorem readByte_copyBytes (src : List Host.Cell) (srcAt dstAt n : Nat) (dst : List Host.Cell) (a : Nat) :
    readByte (copyBytes src srcAt dstAt n dst) a =
      if dstAt ≤ a ∧ a < dstAt + n then readByte src (srcAt + (a - dstAt)) else readByte dst a := by
  induction n with
  | zero =>
    have : ¬ (dstAt ≤ a ∧ a < dstAt + 0) := by omega
    rw [if_neg this]; rfl
  | succ n ih =>
    have step : copyBytes src srcAt dstAt (n + 1) dst =
        writeByte (dstAt + n) (readByte src (srcAt + n)) (copyBytes src srcAt dstAt n dst) := rfl
    rw [step, readByte_writeByte, ih]
    by_cases h : a = dstAt + n
    · subst h
      simp
    · by_cases h' : dstAt ≤ a ∧ a < dstAt + n
      · have : dstAt ≤ a ∧ a < dstAt + (n + 1) := by omega
        rw [if_neg h, if_pos h', if_pos this]
      · have : ¬ (dstAt ≤ a ∧ a < dstAt + (n + 1)) := by omega
        rw [if_neg h, if_neg h', if_neg this]

theorem copyBytes_wf (src : List Host.Cell) (srcAt dstAt n : Nat) (dst : List Host.Cell) (h : Memory.wf dst = true) :
    Memory.wf (copyBytes src srcAt dstAt n dst) = true :=
  loopTo_keeps (fun m => Memory.wf m = true) _ n dst h (fun _ _ hm => writeByte_wf _ _ _ hm)

/-! ### Answers: if an operation answers a next state, this is the state -/

@[simp] theorem okStore_next {s t : State} : okStore s = .next t ↔ t = s.respond .ok := by
  unfold okStore; constructor <;> intro h
  · injection h with h; exact h.symm
  · rw [h]

@[simp] theorem okLoad_next {n : Nat} {v : DWord} {s t : State} : okLoad n v s = .next t ↔ t = s.respond (.loaded n v) := by
  unfold okLoad; constructor <;> intro h
  · injection h with h; exact h.symm
  · rw [h]

@[simp] theorem failUnmapped_next {s t : State} : failUnmapped s = .next t ↔ t = s.respond .failed := by
  unfold failUnmapped; constructor <;> intro h
  · injection h with h; exact h.symm
  · rw [h]

/-- A hole access only answers: under `zero` the load gives 0, under `fail` it is unmapped. -/
theorem holeLoad_next {p : HolePolicy} {n : Nat} {s t : State} (h : holeLoad p n s = .next t) :
    (p = .zero ∧ t = s.respond (.loaded n 0#64)) ∨ (p = .fail ∧ t = s.respond .failed) := by
  cases p
  · exact .inl ⟨rfl, okLoad_next.1 h⟩
  · exact .inr ⟨rfl, failUnmapped_next.1 h⟩

theorem holeStore_next {p : HolePolicy} {s t : State} (h : holeStore p s = .next t) :
    (p = .zero ∧ t = s.respond .ok) ∨ (p = .fail ∧ t = s.respond .failed) := by
  cases p
  · exact .inl ⟨rfl, okStore_next.1 h⟩
  · exact .inr ⟨rfl, failUnmapped_next.1 h⟩

/-- An access in range has its own answer, one out of range is unmapped. -/
theorem inRange_next {size off n : Nat} {s t : State} {r : Result} (h : inRange size off n s r = .next t) :
    (off + n ≤ size ∧ r = .next t) ∨ (size < off + n ∧ t = s.respond .failed) := by
  unfold inRange at h
  split at h
  · exact .inl ⟨‹_›, h⟩
  · exact .inr ⟨by omega, failUnmapped_next.1 h⟩

end Sys2Proof.Machine
end

