-- ==== Sys2Proof/Laws/Moves.lean ====
section
/-! SUPPORT. What a transaction can do to each block, said once: the moves of the PLIC, the CLINT, the SDHC and the UART, and the
inversion lemma `exec_effect`. Every invariant follows from the moves without unfolding `exec`. -/

namespace Sys2Proof.Machine

/-- What one call into the PLIC can do (41_plic.md R181 to R194). -/
inductive PlicMove (cfg : Config) (p : Plic) : Plic → Prop
  | same : PlicMove cfg p p
  | priority (k : Nat) (v : Word) (h : 1 ≤ k ∧ k ≤ cfg.plicNumSources) :
      PlicMove cfg p (({ p with priority := cellSet 0#32 k (lowBits cfg.plicPrioBits v) p.priority } : Plic).update cfg)
  | enable (c w : Nat) (v : Word) (h : c < cfg.plicNumContexts ∧ 32 * w ≤ cfg.plicNumSources) :
      PlicMove cfg p (({ p with
        enabled := cellSet 0#1024 c (putBitmapWord cfg.plicNumSources (p.enabledOf c) w v) p.enabled } : Plic).update cfg)
  | threshold (c : Nat) (v : Word) (h : c < cfg.plicNumContexts) :
      PlicMove cfg p (({ p with threshold := cellSet 0#32 c (lowBits cfg.plicPrioBits v) p.threshold } : Plic).update cfg)
  | claim (c : Nat) (h : c < cfg.plicNumContexts) : PlicMove cfg p (p.claim cfg c)
  | complete (c k : Nat) (h : c < cfg.plicNumContexts) : PlicMove cfg p (p.complete cfg c k)
  | raise (k : Nat) (l : Bool) (h : (1 ≤ k ∧ k ≤ cfg.plicNumSources) ∨ k = cfg.uartIrq ∨ k = cfg.sdhcIrq) :
      PlicMove cfg p (p.raise cfg k l)
  | update : PlicMove cfg p (p.update cfg)

/-- What one transaction can do to the CLINT (42_clint.md R230 to R241). -/
inductive ClintMove (cfg : Config) (c : Clint) : Clint → Prop
  | same : ClintMove cfg c c
  | msip (h : Nat) (b : Bool) (hh : h < cfg.numHarts) :
      ClintMove cfg c (({ c with msip := cellSet false h b c.msip } : Clint).sync cfg h)
  | cmp (h : Nat) (v : DWord) (hh : h < cfg.numHarts) :
      ClintMove cfg c (({ c with mtimecmp := cellSet cfg.clintMtimecmpInit h v c.mtimecmp } : Clint).sync cfg h)
  | cmpRefresh (h : Nat) (v d : DWord) (hh : h < cfg.numHarts) (hd : c.rtLast ≤ d) :
      ClintMove cfg c (({ c with mtimecmp := cellSet cfg.clintMtimecmpInit h v c.mtimecmp, mtime := d, rtLast := d } : Clint).syncAll cfg)
  | refresh (d : DWord) (hd : c.rtLast ≤ d) : ClintMove cfg c (({ c with mtime := d, rtLast := d } : Clint).syncAll cfg)
  | time (v : DWord) : ClintMove cfg c (({ c with mtime := v } : Clint).syncAll cfg)

/-- What one transaction can do to the SDHC: a chain of these (43_sdhc.md R264, R273 to R285). -/
inductive SdhcMove (cfg : Config) (d : Sdhc) : Sdhc → Prop
  | same : SdhcMove cfg d d
  | byte {e : Sdhc} (r : SdhcReg) (i : Nat) (b : Byte) (h : SdhcMove cfg d e) : SdhcMove cfg d (e.putRegByte r i b)
  | reset {e : Sdhc} (h : SdhcMove cfg d e) : SdhcMove cfg d (e.softReset cfg)
  | complete {e : Sdhc} (h : SdhcMove cfg d e) : SdhcMove cfg d e.commandComplete
  | seek {e : Sdhc} (hx : e.xfer = .none) (h : SdhcMove cfg d e) : SdhcMove cfg d { e with pos := e.arg.setWidth 64 }
  | startRead {e : Sdhc} (hx : e.xfer = .none) (hp : e.pos.toNat + 512 ≤ e.capacity.toNat) (h : SdhcMove cfg d e) :
      SdhcMove cfg d e.startRead
  | startWrite {e : Sdhc} (hx : e.xfer = .none) (hp : e.pos.toNat + 512 ≤ e.capacity.toNat) (h : SdhcMove cfg d e) :
      SdhcMove cfg d e.startWrite
  | word {e : Sdhc} (hc : e.cursor + 4 ≠ Config.blockSize) (h : SdhcMove cfg d e) : SdhcMove cfg d { e with cursor := e.cursor + 4 }
  | store {e : Sdhc} (v : Word) (hx : e.xfer = .write) (h : SdhcMove cfg d e) : SdhcMove cfg d (e.putBufferWord v)
  | writeBack {e : Sdhc} (hx : e.xfer = .write) (h : SdhcMove cfg d e) : SdhcMove cfg d e.writeBack
  | closeIdle {e : Sdhc} (k : Nat) (h : SdhcMove cfg d e) : SdhcMove cfg d ({ e with cursor := k } : Sdhc).closeBlock.idle
  | transferComplete {e : Sdhc} (h : SdhcMove cfg d e) : SdhcMove cfg d e.transferComplete
  | closeAdvance {e : Sdhc} (k : Nat) (hx : e.xfer ≠ .none) (hp : e.pos.toNat + 512 + 512 ≤ e.capacity.toNat) (h : SdhcMove cfg d e) :
      SdhcMove cfg d ({ e with cursor := k } : Sdhc).closeBlock.advance
  | line {e : Sdhc} (b : Bool) (h : SdhcMove cfg d e) : SdhcMove cfg d { e with line := b }

/-- What one transaction can do to the UART (44_uart.md R341 to R351). -/
inductive UartMove (u : Uart) : Uart → Prop
  | same : UartMove u u
  | take {w : Uart} (b : Byte) (rest : List Byte) (hq : w.rxq = b :: rest) (h : UartMove u w) : UartMove u { w with rxq := rest }
  | send {w : Uart} (b : Byte) (h : UartMove u w) : UartMove u { w with txlog := w.txlog ++ [b] }
  | ier {w : Uart} (b : Byte) (h : UartMove u w) : UartMove u { w with ier := b &&& 0x0F#8 }
  | fcr {w : Uart} (b : Byte) (h : UartMove u w) : UartMove u { w with fcr := b &&& 0x01#8 }
  | lcr {w : Uart} (b : Byte) (h : UartMove u w) : UartMove u { w with lcr := b }
  | mcr {w : Uart} (b : Byte) (h : UartMove u w) : UartMove u { w with mcr := b }
  | scr {w : Uart} (b : Byte) (h : UartMove u w) : UartMove u { w with scr := b }
  | dll {w : Uart} (b : Byte) (h : UartMove u w) : UartMove u { w with dll := b }
  | dlm {w : Uart} (b : Byte) (h : UartMove u w) : UartMove u { w with dlm := b }
  | psd {w : Uart} (b : Byte) (h : UartMove u w) : UartMove u { w with psd := b }
  | input {w : Uart} (bytes : List Byte) (h : UartMove u w) : UartMove u { w with rxq := w.rxq ++ bytes }
  | line {w : Uart} (b : Bool) (h : UartMove u w) : UartMove u { w with line := b }

/-- The SDHC's image, line and reset register across one transaction: the image changes only where the last word of a write
block arrives (43_sdhc.md R277, R280), the line is current after any change, and `SWRST` clears itself (R282). -/
structure SdhcSide (d e : Sdhc) : Prop where
  line : e = d ∨ e.line = e.level
  swrst : d.swrst = 0#8 → e.swrst = 0#8
  image : e.image = d.image ∨
    (d.xfer = .write ∧ d.cursor + 4 = Config.blockSize ∧ ∃ v, e.image = (d.putBufferWord v).writeBack.image)

theorem SdhcSide.same {d e : Sdhc} (h : e = d) : SdhcSide d e := by
  subst h; exact ⟨.inl rfl, id, .inl rfl⟩

/-- The Bus's maps change only by `add_device`, before the simulation has started (40_bus.md R161). -/
def BusMove (s t : State) : Prop :=
  t.bus = s.bus ∨ ∃ on base d, s.started = false ∧ deviceSize s.cfg d ≠ 0 ∧
    base.toNat + deviceSize s.cfg d ≤ 2 ^ 64 ∧
    ((s.devmap on).any fun m => rangesMeet base.toNat (deviceSize s.cfg d) m.base.toNat m.size) = false ∧
    t.bus = cellSet [] on (insertMapping ⟨base, d, deviceSize s.cfg d⟩ (s.devmap on)) s.bus

/-- The effect of one transaction that answers a next state. -/
structure Effect (s t : State) : Prop where
  cfg : t.cfg = s.cfg
  requests : t.requests = s.requests
  plic : PlicMove s.cfg s.plic t.plic
  clint : ClintMove s.cfg s.clint t.clint
  sdhc : SdhcMove s.cfg s.sdhc t.sdhc
  uart : UartMove s.uart t.uart
  side : SdhcSide s.sdhc t.sdhc
  bus : BusMove s t
  started : s.started = true → t.started = true

/-- A transaction that only answers. -/
theorem Effect.respond (s : State) (r : Response) : Effect s (s.respond r) :=
  ⟨rfl, rfl, .same, .same, .same, .same, .same rfl, .inl rfl, fun _ => rfl⟩

/-- Answering after an effect. -/
theorem Effect.andRespond {s t : State} (h : Effect s t) (r : Response) : Effect s (t.respond r) :=
  ⟨h.cfg, h.requests, h.plic, h.clint, h.sdhc, h.uart, h.side, h.bus, fun _ => rfl⟩

theorem Effect.ofPlic (s : State) (p : Plic) (h : PlicMove s.cfg s.plic p) : Effect s (s.setPlic p) :=
  ⟨rfl, rfl, h, .same, .same, .same, .same rfl, .inl rfl, id⟩

theorem Effect.ofClint (s : State) (c : Clint) (h : ClintMove s.cfg s.clint c) : Effect s (s.setClint c) :=
  ⟨rfl, rfl, .same, h, .same, .same, .same rfl, .inl rfl, id⟩

theorem Effect.ofUart (s : State) (u : Uart) (h : UartMove s.uart u) : Effect s (s.setUart u) :=
  ⟨rfl, rfl, .same, .same, .same, h, .same rfl, .inl rfl, id⟩

theorem holeLoad_effect {p : HolePolicy} {n : Nat} {s t : State} (h : holeLoad p n s = .next t) : Effect s t := by
  rcases holeLoad_next h with ⟨-, rfl⟩ | ⟨-, rfl⟩ <;> exact Effect.respond _ _

theorem holeStore_effect {p : HolePolicy} {s t : State} (h : holeStore p s = .next t) : Effect s t := by
  rcases holeStore_next h with ⟨-, rfl⟩ | ⟨-, rfl⟩ <;> exact Effect.respond _ _

theorem inRange_effect {size off n : Nat} {s t : State} {r : Result} (h : inRange size off n s r = .next t)
    (hr : r = .next t → Effect s t) : Effect s t := by
  rcases inRange_next h with ⟨-, h⟩ | ⟨-, rfl⟩
  · exact hr h
  · exact Effect.respond _ _

/-! ### PLIC -/


theorem execPlicPriorityLd_effect {k : Nat} {s t : State} (h : execPlicPriorityLd k s = .next t) : Effect s t := by
  refine inRange_effect h fun h => ?_
  split at h
  · rw [okLoad_next.1 h]; exact .respond _ _
  · split at h
    · rw [okLoad_next.1 h]; exact .respond _ _
    · exact holeLoad_effect h

theorem execPlicPrioritySt_effect {k : Nat} {v : Word} {s t : State} (h : execPlicPrioritySt k v s = .next t) : Effect s t := by
  refine inRange_effect h fun h => ?_
  split at h
  · rw [okStore_next.1 h]; exact .respond _ _
  · split at h
    · rw [okStore_next.1 h]
      exact (Effect.ofPlic _ _ (.priority k v ⟨by omega, by omega⟩)).andRespond _
    · exact holeStore_effect h

theorem execPlicPendingLd_effect {w : Nat} {s t : State} (h : execPlicPendingLd w s = .next t) : Effect s t := by
  refine inRange_effect h fun h => ?_
  split at h
  · exact holeLoad_effect h
  · rw [okLoad_next.1 h]; exact .respond _ _

theorem execPlicPendingSt_effect {w : Nat} {v : Word} {s t : State} (h : execPlicPendingSt w v s = .next t) : Effect s t := by
  refine inRange_effect h fun h => ?_
  split at h
  · exact holeStore_effect h
  · rw [okStore_next.1 h]; exact .respond _ _

theorem execPlicEnableLd_effect {c w : Nat} {s t : State} (h : execPlicEnableLd c w s = .next t) : Effect s t := by
  refine inRange_effect h fun h => ?_
  split at h
  · exact holeLoad_effect h
  · rw [okLoad_next.1 h]; exact .respond _ _

theorem execPlicEnableSt_effect {c w : Nat} {v : Word} {s t : State} (h : execPlicEnableSt c w v s = .next t) : Effect s t := by
  refine inRange_effect h fun h => ?_
  split at h
  · exact holeStore_effect h
  · rw [okStore_next.1 h]
    exact (Effect.ofPlic _ _ (.enable c w v ⟨by omega, by omega⟩)).andRespond _

theorem execPlicThresholdLd_effect {c : Nat} {s t : State} (h : execPlicThresholdLd c s = .next t) : Effect s t := by
  refine inRange_effect h fun h => ?_
  split at h
  · exact holeLoad_effect h
  · rw [okLoad_next.1 h]; exact .respond _ _

theorem execPlicThresholdSt_effect {c : Nat} {v : Word} {s t : State} (h : execPlicThresholdSt c v s = .next t) : Effect s t := by
  refine inRange_effect h fun h => ?_
  split at h
  · exact holeStore_effect h
  · rw [okStore_next.1 h]
    exact (Effect.ofPlic _ _ (.threshold c v (by omega))).andRespond _

theorem execPlicClaimLd_effect {c : Nat} {s t : State} (h : execPlicClaimLd c s = .next t) : Effect s t := by
  refine inRange_effect h fun h => ?_
  split at h
  · exact holeLoad_effect h
  · rw [okLoad_next.1 h]
    exact (Effect.ofPlic _ _ (.claim c (by omega))).andRespond _

theorem execPlicCompleteSt_effect {c : Nat} {v : Word} {s t : State} (h : execPlicCompleteSt c v s = .next t) : Effect s t := by
  refine inRange_effect h fun h => ?_
  split at h
  · exact holeStore_effect h
  · rw [okStore_next.1 h]
    exact (Effect.ofPlic _ _ (.complete c v.toNat (by omega))).andRespond _

theorem execPlicRaiseIrq_effect {k : Nat} {l : Bool} {s t : State} (h : execPlicRaiseIrq k l s = .next t) : Effect s t := by
  unfold execPlicRaiseIrq at h
  split at h
  · cases h
  · rw [okStore_next.1 h]
    exact (Effect.ofPlic _ _ (.raise k l (.inl ⟨by omega, by omega⟩))).andRespond _

theorem execPlicUpdate_effect {s t : State} (h : execPlicUpdate s = .next t) : Effect s t := by
  rw [okStore_next.1 h]
  exact (Effect.ofPlic _ _ .update).andRespond _

theorem execPlicIntCheck_effect {c : Nat} {s t : State} (h : execPlicIntCheck c s = .next t) : Effect s t := by
  unfold execPlicIntCheck at h
  split at h
  · cases h
  · injection h with h; subst h; exact .respond _ _

theorem plicLoad_effect {off n : Nat} {s t : State} (h : plicLoad off n s = .next t) : Effect s t := by
  unfold plicLoad at h
  split at h
  · split at h
    · exact execPlicPriorityLd_effect h
    · exact execPlicPendingLd_effect h
    · exact execPlicEnableLd_effect h
    · exact execPlicThresholdLd_effect h
    · exact execPlicClaimLd_effect h
    · exact holeLoad_effect h
  · cases h

theorem plicStore_effect {off n : Nat} {v : DWord} {s t : State} (h : plicStore off n v s = .next t) : Effect s t := by
  unfold plicStore at h
  split at h
  · split at h
    · exact execPlicPrioritySt_effect h
    · exact execPlicPendingSt_effect (v := lowHalf v) h
    · exact execPlicEnableSt_effect h
    · exact execPlicThresholdSt_effect h
    · exact execPlicCompleteSt_effect h
    · exact holeStore_effect h
  · cases h

/-! ### CLINT -/

/-- The host's draw is never below the last one (42_clint.md R241). -/
theorem State.rtRefresh_clint (s : State) :
    ∃ d, s.clint.rtLast ≤ d ∧ s.rtRefresh.clint = { s.clint with mtime := d, rtLast := d } := by
  refine ⟨_, ?_, rfl⟩
  split
  · assumption
  · exact BitVec.le_refl _

theorem refreshTime_effect (s : State) : Effect s s.refreshTime := by
  unfold State.refreshTime
  split
  · obtain ⟨d, hd, hc⟩ := s.rtRefresh_clint
    refine ⟨by simp, by simp, by simpa using PlicMove.same, ?_, by simpa using SdhcMove.same, by simpa using UartMove.same,
    .same (by simp), .inl (by simp), by simp⟩
    rw [State.syncAll_clint, hc, State.rtRefresh_cfg]
    exact .refresh d hd
  · exact ⟨rfl, rfl, .same, .same, .same, .same, .same rfl, .inl rfl, id⟩

theorem writeCmp_effect (h : Nat) (v : DWord) (s : State) (hh : h < s.cfg.numHarts) : Effect s (s.writeCmp h v) := by
  refine ⟨by simp, by simp, by simpa using PlicMove.same, ?_, by simpa using SdhcMove.same, by simpa using UartMove.same,
    .same (by simp), .inl (by simp), by simp⟩
  unfold State.writeCmp State.afterCmp
  split
  · obtain ⟨d, hd, hc⟩ := (s.setClint { s.clint with
      mtimecmp := cellSet s.cfg.clintMtimecmpInit h v s.clint.mtimecmp }).rtRefresh_clint
    rw [State.syncAll_clint, hc, State.rtRefresh_cfg, State.setClint_cfg]
    exact .cmpRefresh h v d hh hd
  · exact .cmp h v hh

theorem writeTime_effect (v : DWord) (s : State) : Effect s (s.writeTime v) := by
  refine ⟨by simp, by simp, by simpa using PlicMove.same, ?_, by simpa using SdhcMove.same, by simpa using UartMove.same,
    .same (by simp), .inl (by simp), by simp⟩
  unfold State.writeTime
  split
  · exact .same
  · exact .time v

theorem execClintMsipLd_effect {h : Nat} {s t : State} (hx : execClintMsipLd h s = .next t) : Effect s t := by
  refine inRange_effect hx fun hx => ?_
  split at hx
  · rw [okLoad_next.1 hx]; exact .respond _ _
  · exact holeLoad_effect hx

theorem execClintMsipSt_effect {h : Nat} {v : Word} {s t : State} (hx : execClintMsipSt h v s = .next t) : Effect s t := by
  refine inRange_effect hx fun hx => ?_
  split at hx
  · rw [okStore_next.1 hx]; exact (Effect.ofClint _ _ (.msip h _ ‹_›)).andRespond _
  · exact holeStore_effect hx

theorem execClintMtimecmpLd64_effect {h : Nat} {s t : State} (hx : execClintMtimecmpLd64 h s = .next t) : Effect s t := by
  refine inRange_effect hx fun hx => ?_
  split at hx
  · rw [okLoad_next.1 hx]; exact .respond _ _
  · exact holeLoad_effect hx

theorem execClintMtimecmpLdLo_effect {h : Nat} {s t : State} (hx : execClintMtimecmpLdLo h s = .next t) : Effect s t := by
  refine inRange_effect hx fun hx => ?_
  split at hx
  · rw [okLoad_next.1 hx]; exact .respond _ _
  · exact holeLoad_effect hx

theorem execClintMtimecmpLdHi_effect {h : Nat} {s t : State} (hx : execClintMtimecmpLdHi h s = .next t) : Effect s t := by
  refine inRange_effect hx fun hx => ?_
  split at hx
  · rw [okLoad_next.1 hx]; exact .respond _ _
  · exact holeLoad_effect hx

theorem execClintMtimecmpSt64_effect {h : Nat} {v : DWord} {s t : State} (hx : execClintMtimecmpSt64 h v s = .next t) : Effect s t := by
  refine inRange_effect hx fun hx => ?_
  split at hx
  · rw [okStore_next.1 hx]; exact (writeCmp_effect _ _ _ ‹_›).andRespond _
  · exact holeStore_effect hx

theorem execClintMtimecmpStLo_effect {h : Nat} {v : Word} {s t : State} (hx : execClintMtimecmpStLo h v s = .next t) : Effect s t := by
  refine inRange_effect hx fun hx => ?_
  split at hx
  · rw [okStore_next.1 hx]; exact (writeCmp_effect _ _ _ ‹_›).andRespond _
  · exact holeStore_effect hx

theorem execClintMtimecmpStHi_effect {h : Nat} {v : Word} {s t : State} (hx : execClintMtimecmpStHi h v s = .next t) : Effect s t := by
  refine inRange_effect hx fun hx => ?_
  split at hx
  · rw [okStore_next.1 hx]; exact (writeCmp_effect _ _ _ ‹_›).andRespond _
  · exact holeStore_effect hx

theorem execClintMtimeLd64_effect {s t : State} (hx : execClintMtimeLd64 s = .next t) : Effect s t := by
  refine inRange_effect hx fun hx => ?_
  rw [okLoad_next.1 hx]; exact (refreshTime_effect _).andRespond _

theorem execClintMtimeLdLo_effect {s t : State} (hx : execClintMtimeLdLo s = .next t) : Effect s t := by
  refine inRange_effect hx fun hx => ?_
  rw [okLoad_next.1 hx]; exact (refreshTime_effect _).andRespond _

theorem execClintMtimeLdHi_effect {s t : State} (hx : execClintMtimeLdHi s = .next t) : Effect s t := by
  refine inRange_effect hx fun hx => ?_
  rw [okLoad_next.1 hx]; exact (refreshTime_effect _).andRespond _

theorem execClintMtimeSt64_effect {v : DWord} {s t : State} (hx : execClintMtimeSt64 v s = .next t) : Effect s t := by
  refine inRange_effect hx fun hx => ?_
  rw [okStore_next.1 hx]; exact (writeTime_effect _ _).andRespond _

theorem execClintMtimeStLo_effect {v : Word} {s t : State} (hx : execClintMtimeStLo v s = .next t) : Effect s t := by
  refine inRange_effect hx fun hx => ?_
  rw [okStore_next.1 hx]; exact (writeTime_effect _ _).andRespond _

theorem execClintMtimeStHi_effect {v : Word} {s t : State} (hx : execClintMtimeStHi v s = .next t) : Effect s t := by
  refine inRange_effect hx fun hx => ?_
  rw [okStore_next.1 hx]; exact (writeTime_effect _ _).andRespond _

theorem execClintIncrement_effect {delta : DWord} {s t : State} (hx : execClintIncrement delta s = .next t) : Effect s t := by
  rw [okStore_next.1 hx]
  refine Effect.andRespond ?_ _
  have h := refreshTime_effect s
  unfold State.refreshTime at h
  split
  · rwa [if_pos ‹_›] at h
  · exact .ofClint _ _ (.time _)

theorem clintLoad_effect {off n : Nat} {s t : State} (h : clintLoad off n s = .next t) : Effect s t := by
  unfold clintLoad at h
  split at h
  · exact execClintMsipLd_effect h
  · exact execClintMtimecmpLd64_effect h
  · exact execClintMtimecmpLdLo_effect h
  · exact execClintMtimecmpLdHi_effect h
  · exact execClintMtimeLd64_effect h
  · exact execClintMtimeLdLo_effect h
  · exact execClintMtimeLdHi_effect h
  · exact holeLoad_effect h
  · cases h

theorem clintStore_effect {off n : Nat} {v : DWord} {s t : State} (h : clintStore off n v s = .next t) : Effect s t := by
  unfold clintStore at h
  split at h
  · exact execClintMsipSt_effect h
  · exact execClintMtimecmpSt64_effect h
  · exact execClintMtimecmpStLo_effect h
  · exact execClintMtimecmpStHi_effect h
  · exact execClintMtimeSt64_effect h
  · exact execClintMtimeStLo_effect h
  · exact execClintMtimeStHi_effect h
  · exact holeStore_effect h
  · cases h

/-! ### SDHC -/

/-- The line's recomputation: the SDHC keeps its level, and the PLIC sees at most one `raise_irq`. -/
theorem recomputeLine_effect {s t : State} (hc : t.cfg = s.cfg) (hr : t.requests = s.requests) (hp : t.plic = s.plic)
    (hcl : t.clint = s.clint) (hd : SdhcMove s.cfg s.sdhc t.sdhc) (hu : t.uart = s.uart)
    (hw : s.sdhc.swrst = 0#8 → t.sdhc.swrst = 0#8)
    (hi : t.sdhc.image = s.sdhc.image ∨ (s.sdhc.xfer = .write ∧ s.sdhc.cursor + 4 = Config.blockSize ∧
      ∃ v, t.sdhc.image = (s.sdhc.putBufferWord v).writeBack.image))
    (hb : t.bus = s.bus) (hst : t.started = s.started) : Effect s t.recomputeLine := by
  refine ⟨by simp [hc], by simp [hr], ?_, by simp only [State.recomputeLine_clint, hcl]; exact .same, ?_,
    by simp only [State.recomputeLine_uart, hu]; exact .same, ?_, .inl (by simp [hb]), by simp [hst]⟩
  · rw [State.recomputeLine_plic, hp, hc]
    split
    · exact .raise _ _ (.inr (.inr rfl))
    · exact .same
  · rw [State.recomputeLine_sdhc]; exact .line _ hd
  · rw [State.recomputeLine_sdhc]; exact ⟨.inr rfl, hw, hi⟩

theorem putValueAt_move (cfg : Config) (d e : Sdhc) (off n : Nat) (v : DWord) (h : SdhcMove cfg d e) :
    SdhcMove cfg d (e.putValueAt off n v) := by
  refine loopTo_keeps (fun x => SdhcMove cfg d x) _ n e h (fun j x hx => ?_)
  show SdhcMove cfg d (x.putByteAt (off + j) (getByte v j))
  unfold Sdhc.putByteAt
  split
  · exact .byte _ _ _ hx
  · exact hx

theorem storeBytes_move (s : State) (off n : Nat) (v : DWord) : SdhcMove s.cfg s.sdhc (s.storeBytes off n v).sdhc := by
  have h := putValueAt_move s.cfg s.sdhc s.sdhc off n v .same
  unfold State.storeBytes
  simp only [State.setSdhc_sdhc]
  split
  · exact .reset h
  · exact h

@[simp] theorem Sdhc.putPrsnt_image (k : Nat) (b : Bool) (d : Sdhc) : (d.putPrsnt k b).image = d.image := rfl
@[simp] theorem Sdhc.putNists_image (k : Nat) (b : Bool) (d : Sdhc) : (d.putNists k b).image = d.image := rfl
@[simp] theorem Sdhc.fillBuffer_image (d : Sdhc) : d.fillBuffer.image = d.image := rfl
@[simp] theorem Sdhc.fillBuffer_swrst (d : Sdhc) : d.fillBuffer.swrst = d.swrst := rfl
@[simp] theorem Sdhc.armRead_image (d : Sdhc) : d.armRead.image = d.image := rfl
@[simp] theorem Sdhc.armRead_swrst (d : Sdhc) : d.armRead.swrst = d.swrst := rfl
@[simp] theorem Sdhc.armWrite_image (d : Sdhc) : d.armWrite.image = d.image := rfl
@[simp] theorem Sdhc.armWrite_swrst (d : Sdhc) : d.armWrite.swrst = d.swrst := rfl
@[simp] theorem Sdhc.resetCommand_image (d : Sdhc) : d.resetCommand.image = d.image := rfl
@[simp] theorem Sdhc.resetData_image (d : Sdhc) : d.resetData.image = d.image := by
  unfold Sdhc.resetData; simp
@[simp] theorem Sdhc.resetAll_image (cfg : Config) (d : Sdhc) : (d.resetAll cfg).image = d.image := rfl

@[simp] theorem Sdhc.putRegByte_image (d : Sdhc) (r : SdhcReg) (i : Nat) (b : Byte) : (d.putRegByte r i b).image = d.image := by
  cases r <;> rfl

theorem Sdhc.putRegByte_swrst (d : Sdhc) (r : SdhcReg) (i : Nat) (b : Byte) (h : r ≠ .swrst) :
    (d.putRegByte r i b).swrst = d.swrst := by
  cases r <;> first | rfl | exact absurd rfl h

/-- The only byte `SWRST` owns is `0x2F` (30_encoding.md R145). -/
theorem sdhcOwner_swrst {off i : Nat} (h : sdhcOwner off = some (.swrst, i)) : off = 0x2F := by
  unfold sdhcOwner at h
  rcases hf : SdhcReg.all.find? (fun r => decide (r.lo ≤ off ∧ off < r.lo + r.len)) with _ | r
  · rw [hf] at h; cases h
  · rw [hf] at h
    have hr := List.find?_some hf
    simp only [Option.map_some, Option.some.injEq, Prod.mk.injEq] at h
    obtain ⟨rfl, -⟩ := h
    have hr := of_decide_eq_true hr
    simp only [SdhcReg.lo, SdhcReg.len] at hr
    omega

@[simp] theorem Sdhc.putValueAt_image (d : Sdhc) (off n : Nat) (v : DWord) : (d.putValueAt off n v).image = d.image := by
  refine loopTo_keeps (fun x : Sdhc => x.image = d.image) _ n d rfl (fun j x hx => ?_)
  show (x.putByteAt (off + j) (getByte v j)).image = d.image
  unfold Sdhc.putByteAt
  split <;> simp [hx]

theorem Sdhc.putValueAt_swrst (d : Sdhc) (off n : Nat) (v : DWord) (h : covers off n 0x2F = false) :
    (d.putValueAt off n v).swrst = d.swrst := by
  replace h : ¬ (off ≤ 0x2F ∧ 0x2F < off + n) := by simpa [covers] using h
  induction n with
  | zero => rfl
  | succ n ih =>
    have ih := ih (by omega)
    show ((d.putValueAt off n v).putByteAt (off + n) (getByte v n)).swrst = d.swrst
    unfold Sdhc.putByteAt
    split
    · rename_i r i hr
      rw [Sdhc.putRegByte_swrst _ _ _ _ ?_, ih]
      rintro rfl
      have := sdhcOwner_swrst hr
      omega
    · exact ih

@[simp] theorem Sdhc.softReset_image (cfg : Config) (d : Sdhc) : (d.softReset cfg).image = d.image := by
  unfold Sdhc.softReset
  dsimp only
  split
  · simp
  · split <;> split <;> simp

@[simp] theorem Sdhc.softReset_swrst (cfg : Config) (d : Sdhc) : (d.softReset cfg).swrst = 0#8 := by
  unfold Sdhc.softReset; rfl

/-- A store's bytes leave the image alone and `SWRST` clear. -/
theorem storeBytes_side (s : State) (off n : Nat) (v : DWord) :
    (s.storeBytes off n v).sdhc.image = s.sdhc.image ∧ (s.sdhc.swrst = 0#8 → (s.storeBytes off n v).sdhc.swrst = 0#8) := by
  unfold State.storeBytes
  simp only [State.setSdhc_sdhc]
  split
  · exact ⟨by simp, fun _ => by simp⟩
  · rename_i h
    exact ⟨by simp, fun hs => by rw [Sdhc.putValueAt_swrst _ _ _ _ (by simpa using h), hs]⟩

/-- What issuing a command leaves alone: only the SDHC and the counters change, and not the image. -/
structure CommandSide (s t : State) : Prop where
  cfg : t.cfg = s.cfg
  requests : t.requests = s.requests
  plic : t.plic = s.plic
  clint : t.clint = s.clint
  uart : t.uart = s.uart
  bus : t.bus = s.bus
  started : t.started = s.started
  draws : t.draws = s.draws
  image : t.sdhc.image = s.sdhc.image
  swrst : t.sdhc.swrst = s.sdhc.swrst

@[simp] theorem Sdhc.commandComplete_image (d : Sdhc) : d.commandComplete.image = d.image := by
  unfold Sdhc.commandComplete; split <;> rfl

@[simp] theorem Sdhc.commandComplete_swrst (d : Sdhc) : d.commandComplete.swrst = d.swrst := by
  unfold Sdhc.commandComplete; split <;> rfl

theorem issue_move {s t : State} {idx : Nat} (h : s.issue idx = .ok t) :
    SdhcMove s.cfg s.sdhc t.sdhc ∧ CommandSide s t := by
  unfold State.issue at h
  split at h
  · split at h
    · cases h
    · split at h
      · cases h
      · rename_i hx _
        have hx : s.sdhc.xfer = .none := by simpa using hx
        have hs : SdhcMove s.cfg s.sdhc { s.sdhc with pos := s.sdhc.arg.setWidth 64 } := .seek hx .same
        dsimp only at h
        split at h
        · injection h with h; subst h
          exact ⟨.complete hs, rfl, rfl, rfl, rfl, rfl, rfl, rfl, rfl, Sdhc.commandComplete_image _, Sdhc.commandComplete_swrst _⟩
        · have hp : ({ s.sdhc with pos := s.sdhc.arg.setWidth 64 } : Sdhc).pos.toNat + 512 ≤ s.sdhc.capacity.toNat := by
            rename_i hp _; first | exact Nat.le_of_not_lt hp | exact Nat.le_of_not_lt ‹¬ _ < _ + 512›
          split at h
          · injection h with h; subst h
            exact ⟨.complete (.startRead hx hp hs), rfl, rfl, rfl, rfl, rfl, rfl, rfl, rfl, Sdhc.commandComplete_image _,
              Sdhc.commandComplete_swrst _⟩
          · injection h with h; subst h
            exact ⟨.complete (.startWrite hx hp hs), rfl, rfl, rfl, rfl, rfl, rfl, rfl, rfl, Sdhc.commandComplete_image _,
              Sdhc.commandComplete_swrst _⟩
  · injection h with h; subst h
    exact ⟨.complete .same, rfl, rfl, rfl, rfl, rfl, rfl, rfl, rfl, Sdhc.commandComplete_image _, Sdhc.commandComplete_swrst _⟩

theorem storeCommand_move {s t : State} {off n : Nat} (h : s.storeCommand off n = .ok t) :
    SdhcMove s.cfg s.sdhc t.sdhc ∧ CommandSide s t := by
  unfold State.storeCommand at h
  split at h
  · exact issue_move h
  · injection h with h; subst h; exact ⟨.same, rfl, rfl, rfl, rfl, rfl, rfl, rfl, rfl, rfl, rfl⟩

theorem SdhcMove.trans {cfg : Config} {d e f : Sdhc} (h1 : SdhcMove cfg d e) (h2 : SdhcMove cfg e f) : SdhcMove cfg d f := by
  induction h2 with
  | same => exact h1
  | byte r i b _ ih => exact .byte r i b ih
  | reset _ ih => exact .reset ih
  | complete _ ih => exact .complete ih
  | seek hx _ ih => exact .seek hx ih
  | startRead hx hp _ ih => exact .startRead hx hp ih
  | startWrite hx hp _ ih => exact .startWrite hx hp ih
  | word hc _ ih => exact .word hc ih
  | store v hx _ ih => exact .store v hx ih
  | writeBack hx _ ih => exact .writeBack hx ih
  | closeIdle k _ ih => exact .closeIdle k ih
  | transferComplete _ ih => exact .transferComplete ih
  | closeAdvance k hx hp _ ih => exact .closeAdvance k hx hp ih
  | line b _ ih => exact .line b ih

@[simp] theorem Sdhc.closeBlock_pos (d : Sdhc) : d.closeBlock.pos = d.pos := by
  unfold Sdhc.closeBlock; dsimp only; split <;> split <;> rfl
@[simp] theorem Sdhc.closeBlock_capacity (d : Sdhc) : d.closeBlock.capacity = d.capacity := by
  unfold Sdhc.closeBlock; dsimp only; split <;> split <;> rfl
@[simp] theorem Sdhc.closeBlock_image (d : Sdhc) : d.closeBlock.image = d.image := by
  unfold Sdhc.closeBlock; dsimp only; split <;> split <;> rfl
@[simp] theorem Sdhc.closeBlock_swrst (d : Sdhc) : d.closeBlock.swrst = d.swrst := by
  unfold Sdhc.closeBlock; dsimp only; split <;> split <;> rfl
@[simp] theorem Sdhc.closeBlock_xfer (d : Sdhc) : d.closeBlock.xfer = d.xfer := by
  unfold Sdhc.closeBlock; dsimp only; split <;> split <;> rfl
@[simp] theorem Sdhc.idle_image (d : Sdhc) : d.idle.image = d.image := rfl
@[simp] theorem Sdhc.idle_swrst (d : Sdhc) : d.idle.swrst = d.swrst := rfl
@[simp] theorem Sdhc.advance_image (d : Sdhc) : d.advance.image = d.image := by
  unfold Sdhc.advance; dsimp only; split <;> simp
@[simp] theorem Sdhc.advance_swrst (d : Sdhc) : d.advance.swrst = d.swrst := by
  unfold Sdhc.advance; dsimp only; split <;> simp
@[simp] theorem Sdhc.transferComplete_image (d : Sdhc) : d.transferComplete.image = d.image := by
  unfold Sdhc.transferComplete; split <;> rfl
@[simp] theorem Sdhc.transferComplete_swrst (d : Sdhc) : d.transferComplete.swrst = d.swrst := by
  unfold Sdhc.transferComplete; split <;> rfl

@[simp] theorem State.endOfBlock_image (s : State) : s.endOfBlock.sdhc.image = s.sdhc.image := by
  unfold State.endOfBlock; dsimp only
  split
  · simp
  · split <;> simp

@[simp] theorem State.endOfBlock_swrst (s : State) : s.endOfBlock.sdhc.swrst = s.sdhc.swrst := by
  unfold State.endOfBlock; dsimp only
  split
  · simp
  · split <;> simp

/-- The end of a block, with the cursor the last access left. -/
theorem endOfBlock_move (s : State) (e : Sdhc) (k : Nat) (hs : s.sdhc = { e with cursor := k }) (hx : e.xfer ≠ .none)
    (h : SdhcMove s.cfg e e) : SdhcMove s.cfg e s.endOfBlock.sdhc := by
  unfold State.endOfBlock
  dsimp only
  rw [hs]
  split
  · exact .transferComplete (.closeIdle k h)
  · split
    · rename_i hp
      rw [Sdhc.closeBlock_pos, Sdhc.closeBlock_capacity] at hp
      exact .closeAdvance k hx hp h
    · exact .closeIdle k h

theorem bufdataLoad_effect {s t : State} (h : bufdataLoad s = .next t) : Effect s t := by
  unfold bufdataLoad at h
  split at h
  · rw [okLoad_next.1 h]; exact ⟨rfl, rfl, .same, .same, .same, .same, .same rfl, .inl rfl, fun _ => rfl⟩
  · split at h
    · cases h
    · rename_i hx _
      have hx : s.sdhc.xfer = .read := by
        by_cases hxx : s.sdhc.xfer = .read
        · exact hxx
        · exact absurd (Or.inl hxx) hx
      rw [okLoad_next.1 h]
      refine Effect.andRespond ?_ _
      split
      · refine recomputeLine_effect (by simp) (by simp) (by simp) (by simp) ?_ (by simp) (by simp) (.inl (by simp)) (by simp)
          (by simp)
        exact endOfBlock_move (s.setSdhc { s.sdhc with cursor := s.sdhc.cursor + 4 }) s.sdhc _ rfl (by rw [hx]; simp) .same
      · exact recomputeLine_effect rfl rfl rfl rfl (.word ‹_› .same) rfl id (.inl rfl) rfl rfl

theorem bufdataStore_effect {v : Word} {s t : State} (h : bufdataStore v s = .next t) : Effect s t := by
  unfold bufdataStore at h
  split at h
  · rw [okStore_next.1 h]; exact ⟨rfl, rfl, .same, .same, .same, .same, .same rfl, .inl rfl, fun _ => rfl⟩
  · split at h
    · cases h
    · rename_i hx _
      have hx : s.sdhc.xfer = .write := by
        by_cases hxx : s.sdhc.xfer = .write
        · exact hxx
        · exact absurd (Or.inl hxx) hx
      have hp : SdhcMove s.cfg s.sdhc (s.sdhc.putBufferWord v) := .store v hx .same
      rw [okStore_next.1 h]
      refine Effect.andRespond ?_ _
      split
      · rename_i hend
        refine recomputeLine_effect (s := s) (by simp) (by simp) (by simp) (by simp) ?_ (by simp) ?_ ?_ (by simp) (by simp)
        · have hw : SdhcMove s.cfg s.sdhc (s.sdhc.putBufferWord v).writeBack := .writeBack hx hp
          exact hw.trans (endOfBlock_move
            ((s.setSdhc { s.sdhc.putBufferWord v with cursor := (s.sdhc.putBufferWord v).cursor + 4 }).setSdhc
              ({ s.sdhc.putBufferWord v with cursor := (s.sdhc.putBufferWord v).cursor + 4 } : Sdhc).writeBack)
            (s.sdhc.putBufferWord v).writeBack _ rfl (by show s.sdhc.xfer ≠ .none; rw [hx]; simp) .same)
        · intro hs; rw [State.endOfBlock_swrst]; exact hs
        · exact .inr ⟨hx, hend, v, by rw [State.endOfBlock_image]; rfl⟩
      · exact recomputeLine_effect rfl rfl rfl rfl (.word (e := s.sdhc.putBufferWord v) ‹_› hp) rfl id (.inl rfl) rfl rfl

theorem sdhcGate_effect {off n : Nat} {s t : State} {r : Result} (h : sdhcGate off n s r = .next t)
    (hr : r = .next t → Effect s t) : Effect s t := by
  refine inRange_effect h fun h => ?_
  split at h
  · rw [failUnmapped_next.1 h]; exact .respond _ _
  · split at h
    · cases h
    · split at h
      · rw [failUnmapped_next.1 h]; exact .respond _ _
      · exact hr h

theorem sdhcLoad_effect {off n : Nat} {s t : State} (h : sdhcLoad off n s = .next t) : Effect s t := by
  refine sdhcGate_effect h fun h => ?_
  split at h
  · exact bufdataLoad_effect h
  · rw [okLoad_next.1 h]; exact .respond _ _

theorem sdhcStore_effect {off n : Nat} {v : DWord} {s t : State} (h : sdhcStore off n v s = .next t) : Effect s t := by
  refine sdhcGate_effect h fun h => ?_
  split at h
  · exact bufdataStore_effect h
  · split at h
    · cases h
    · rename_i u hu
      rw [okStore_next.1 h]
      obtain ⟨hm, hc⟩ := storeCommand_move hu
      have hb := storeBytes_side s off n v
      refine (recomputeLine_effect (s := s) hc.cfg hc.requests hc.plic hc.clint ((storeBytes_move s off n v).trans hm) hc.uart
        (fun hs => ?_) (.inl ?_) hc.bus hc.started).andRespond _
      · rw [hc.swrst]; exact hb.2 hs
      · rw [hc.image]; exact hb.1

/-! ### UART -/

/-- `check_int()` after an effect on the UART alone. -/
theorem checkInt_effect {s t : State} (hc : t.cfg = s.cfg) (hr : t.requests = s.requests) (hp : t.plic = s.plic)
    (hcl : t.clint = s.clint) (hd : t.sdhc = s.sdhc) (hu : UartMove s.uart t.uart) (hb : t.bus = s.bus)
    (hst : t.started = s.started) : Effect s t.checkInt := by
  refine ⟨by simp [hc], by simp [hr], ?_, by simp only [State.checkInt_clint, hcl]; exact .same,
    by simp only [State.checkInt_sdhc, hd]; exact .same, ?_, .same (by simp [hd]), .inl (by simp [hb]), by simp [hst]⟩
  · rw [State.checkInt_plic, hp, hc]
    split
    · exact .raise _ _ (.inr (.inl rfl))
    · exact .same
  · rw [State.checkInt_uart]; exact .line _ hu

theorem uartLoaded_effect {b : Byte} {s t : State} (h : uartLoaded b s = .next t) : Effect s t := by
  rw [okLoad_next.1 h]
  exact (checkInt_effect rfl rfl rfl rfl rfl .same rfl rfl).andRespond _

theorem uartStored_effect {s t : State} {u : Uart} (hu : UartMove s.uart u) (h : uartStored (s.setUart u) = .next t) :
    Effect s t := by
  rw [okStore_next.1 h]
  exact (checkInt_effect (s := s) (t := s.setUart u) rfl rfl rfl rfl rfl hu rfl rfl).andRespond _

theorem uartStored_same_effect {s t : State} (h : uartStored s = .next t) : Effect s t := by
  rw [okStore_next.1 h]
  exact (checkInt_effect rfl rfl rfl rfl rfl .same rfl rfl).andRespond _

theorem rbrLoad_effect {s t : State} (h : rbrLoad s = .next t) : Effect s t := by
  unfold rbrLoad at h
  split at h
  · exact uartLoaded_effect h
  · rename_i b rest hq
    rw [okLoad_next.1 h]
    exact (checkInt_effect (s := s) (t := s.setUart { s.uart with rxq := rest }) rfl rfl rfl rfl rfl
      (.take b rest hq .same) rfl rfl).andRespond _

theorem execUartRbrLd_effect {s t : State} (h : execUartRbrLd s = .next t) : Effect s t := by
  refine inRange_effect h fun h => ?_
  split at h
  · exact uartLoaded_effect h
  · exact rbrLoad_effect h

theorem execUartDllLd_effect {s t : State} (h : execUartDllLd s = .next t) : Effect s t := by
  refine inRange_effect h fun h => ?_
  split at h
  · exact uartLoaded_effect h
  · exact rbrLoad_effect h

theorem execUartThrSt_effect {v : Byte} {s t : State} (h : execUartThrSt v s = .next t) : Effect s t := by
  refine inRange_effect h fun h => ?_
  split at h
  · exact uartStored_effect (.dll v .same) h
  · exact uartStored_effect (.send v .same) h

theorem execUartDllSt_effect {v : Byte} {s t : State} (h : execUartDllSt v s = .next t) : Effect s t := by
  refine inRange_effect h fun h => ?_
  split at h
  · exact uartStored_effect (.dll v .same) h
  · exact uartStored_effect (.send v .same) h

theorem execUartIerLd_effect {s t : State} (h : execUartIerLd s = .next t) : Effect s t := by
  refine inRange_effect h fun h => ?_
  split at h
  · exact uartLoaded_effect h
  · exact uartLoaded_effect h

theorem execUartDlmLd_effect {s t : State} (h : execUartDlmLd s = .next t) : Effect s t := by
  refine inRange_effect h fun h => ?_
  split at h
  · exact uartLoaded_effect h
  · exact uartLoaded_effect h

theorem execUartLsrLd_effect {s t : State} (h : execUartLsrLd s = .next t) : Effect s t := by
  refine inRange_effect h fun h => ?_
  split at h
  · exact uartLoaded_effect h
  · exact uartLoaded_effect h

theorem execUartPsdLd_effect {s t : State} (h : execUartPsdLd s = .next t) : Effect s t := by
  refine inRange_effect h fun h => ?_
  split at h
  · exact uartLoaded_effect h
  · exact uartLoaded_effect h

theorem execUartIerSt_effect {v : Byte} {s t : State} (h : execUartIerSt v s = .next t) : Effect s t := by
  refine inRange_effect h fun h => ?_
  split at h
  · exact uartStored_effect (.dlm v .same) h
  · exact uartStored_effect (.ier v .same) h

theorem execUartDlmSt_effect {v : Byte} {s t : State} (h : execUartDlmSt v s = .next t) : Effect s t := by
  refine inRange_effect h fun h => ?_
  split at h
  · exact uartStored_effect (.dlm v .same) h
  · exact uartStored_effect (.ier v .same) h

theorem execUartLsrSt_effect {v : Byte} {s t : State} (h : execUartLsrSt v s = .next t) : Effect s t := by
  refine inRange_effect h fun h => ?_
  split at h
  · exact uartStored_effect (.psd v .same) h
  · exact uartStored_same_effect h

theorem execUartPsdSt_effect {v : Byte} {s t : State} (h : execUartPsdSt v s = .next t) : Effect s t := by
  refine inRange_effect h fun h => ?_
  split at h
  · exact uartStored_effect (.psd v .same) h
  · exact uartStored_same_effect h

theorem execUartIirLd_effect {s t : State} (h : execUartIirLd s = .next t) : Effect s t := by
  refine inRange_effect h fun h => ?_
  exact uartLoaded_effect h

theorem execUartLcrLd_effect {s t : State} (h : execUartLcrLd s = .next t) : Effect s t := by
  refine inRange_effect h fun h => ?_
  exact uartLoaded_effect h

theorem execUartMcrLd_effect {s t : State} (h : execUartMcrLd s = .next t) : Effect s t := by
  refine inRange_effect h fun h => ?_
  exact uartLoaded_effect h

theorem execUartMsrLd_effect {s t : State} (h : execUartMsrLd s = .next t) : Effect s t := by
  refine inRange_effect h fun h => ?_
  exact uartLoaded_effect h

theorem execUartScrLd_effect {s t : State} (h : execUartScrLd s = .next t) : Effect s t := by
  refine inRange_effect h fun h => ?_
  exact uartLoaded_effect h

theorem execUartFcrSt_effect {v : Byte} {s t : State} (h : execUartFcrSt v s = .next t) : Effect s t := by
  refine inRange_effect h fun h => ?_
  exact uartStored_effect (.fcr v .same) h

theorem execUartLcrSt_effect {v : Byte} {s t : State} (h : execUartLcrSt v s = .next t) : Effect s t := by
  refine inRange_effect h fun h => ?_
  exact uartStored_effect (.lcr v .same) h

theorem execUartMcrSt_effect {v : Byte} {s t : State} (h : execUartMcrSt v s = .next t) : Effect s t := by
  refine inRange_effect h fun h => ?_
  exact uartStored_effect (.mcr v .same) h

theorem execUartScrSt_effect {v : Byte} {s t : State} (h : execUartScrSt v s = .next t) : Effect s t := by
  refine inRange_effect h fun h => ?_
  exact uartStored_effect (.scr v .same) h

theorem execUartMsrSt_effect {v : Byte} {s t : State} (h : execUartMsrSt v s = .next t) : Effect s t := by
  refine inRange_effect h fun h => ?_
  exact uartStored_same_effect h

theorem execUartPoll_effect {s t : State} (h : execUartPoll s = .next t) : Effect s t := uartStored_same_effect h

theorem execUartHostInput_effect {bytes : List Byte} {s t : State} (h : execUartHostInput bytes s = .next t) : Effect s t := by
  rw [okStore_next.1 h]
  exact (Effect.ofUart _ _ (.input bytes .same)).andRespond _

theorem uartLoad_effect {off n : Nat} {s t : State} (h : uartLoad off n s = .next t) : Effect s t := by
  unfold uartLoad at h
  split at h
  · split at h
    · split at h
      · exact execUartDllLd_effect h
      · exact execUartRbrLd_effect h
    · split at h
      · exact execUartDlmLd_effect h
      · exact execUartIerLd_effect h
    · exact execUartIirLd_effect h
    · exact execUartLcrLd_effect h
    · exact execUartMcrLd_effect h
    · split at h
      · exact execUartPsdLd_effect h
      · exact execUartLsrLd_effect h
    · exact execUartMsrLd_effect h
    · exact execUartScrLd_effect h
    · exact holeLoad_effect h
  · cases h

theorem uartStore_effect {off n : Nat} {v : DWord} {s t : State} (h : uartStore off n v s = .next t) : Effect s t := by
  unfold uartStore at h
  split at h
  · split at h
    · split at h
      · exact execUartDllSt_effect h
      · exact execUartThrSt_effect h
    · split at h
      · exact execUartDlmSt_effect h
      · exact execUartIerSt_effect h
    · exact execUartFcrSt_effect h
    · exact execUartLcrSt_effect h
    · exact execUartMcrSt_effect h
    · split at h
      · exact execUartPsdSt_effect h
      · exact execUartLsrSt_effect h
    · exact execUartMsrSt_effect (v := getByte v 0) h
    · exact execUartScrSt_effect h
    · exact holeStore_effect h
  · cases h

/-! ### The Bus, and every transaction -/

theorem Effect.drawnRespond (s : State) (r : Response) : Effect s (s.drawn.respond r) :=
  ⟨rfl, rfl, .same, .same, .same, .same, .same rfl, .inl rfl, fun _ => rfl⟩

theorem deviceLoad_effect {d : Device} {off n : Nat} {s t : State} (h : deviceLoad d off n s = .next t) : Effect s t := by
  cases d with
  | plic => exact plicLoad_effect h
  | clint => exact clintLoad_effect h
  | uart => exact uartLoad_effect h
  | sdhc => exact sdhcLoad_effect h
  | bus id size => rw [failUnmapped_next.1 h]; exact .respond _ _
  | other id size =>
    change otherLoad id off n s = .next t at h
    unfold otherLoad at h
    split at h
    · rw [okLoad_next.1 h]; exact .drawnRespond _ _
    · rw [failUnmapped_next.1 h]; exact .drawnRespond _ _
    · cases h

theorem deviceStore_effect {d : Device} {off n : Nat} {v : DWord} {s t : State} (h : deviceStore d off n v s = .next t) :
    Effect s t := by
  cases d with
  | plic => exact plicStore_effect h
  | clint => exact clintStore_effect h
  | uart => exact uartStore_effect h
  | sdhc => exact sdhcStore_effect h
  | bus id size => rw [failUnmapped_next.1 h]; exact .respond _ _
  | other id size =>
    change otherStore id off n v s = .next t at h
    unfold otherStore at h
    split at h
    · rw [okStore_next.1 h]; exact .drawnRespond _ _
    · rw [failUnmapped_next.1 h]; exact .drawnRespond _ _
    · cases h

theorem execBusLoad_effect {addr : DWord} {n : Nat} {s t : State} (h : execBusLoad addr n s = .next t) : Effect s t := by
  unfold execBusLoad at h
  split at h
  · split at h
    · rw [failUnmapped_next.1 h]; exact .respond _ _
    · exact deviceLoad_effect h
  · cases h

theorem execBusStore_effect {addr : DWord} {n : Nat} {v : DWord} {s t : State} (h : execBusStore addr n v s = .next t) :
    Effect s t := by
  unfold execBusStore at h
  split at h
  · split at h
    · rw [failUnmapped_next.1 h]; exact .respond _ _
    · exact deviceStore_effect h
  · cases h

theorem execBusAddDevice_effect {on : Nat} {base : DWord} {d : Device} {s t : State} (h : execBusAddDevice on base d s = .next t) :
    Effect s t := by
  unfold execBusAddDevice at h
  split at h
  · cases h
  · split at h
    · cases h
    · split at h
      · cases h
      · injection h with h; subst h;
        exact ⟨rfl, rfl, .same, .same, .same, .same, .same rfl, .inr ⟨on, base, d, by simpa using ‹¬ s.started = true›, by omega, by omega, Bool.eq_false_iff.2 ‹_›, rfl⟩, id⟩

theorem execBusFindDevice_effect {addr : DWord} {s t : State} (h : execBusFindDevice addr s = .next t) : Effect s t := by
  unfold execBusFindDevice at h
  injection h with h; subst h; exact ⟨rfl, rfl, .same, .same, .same, .same, .same rfl, .inl rfl, id⟩

/-- Everything a transaction that answers a next state can do. -/
theorem exec_effect {i : Instr} {s t : State} (h : exec i s = .next t) : Effect s t := by
  cases i with
  | busLoad addr n => exact execBusLoad_effect h
  | busStore addr n v => exact execBusStore_effect h
  | busAddDevice on base d => exact execBusAddDevice_effect h
  | busFindDevice addr => exact execBusFindDevice_effect h
  | plicPriorityLd k => exact execPlicPriorityLd_effect h
  | plicPrioritySt k v => exact execPlicPrioritySt_effect h
  | plicPendingLd w => exact execPlicPendingLd_effect h
  | plicPendingSt w v => exact execPlicPendingSt_effect (v := v) h
  | plicEnableLd c w => exact execPlicEnableLd_effect h
  | plicEnableSt c w v => exact execPlicEnableSt_effect h
  | plicThresholdLd c => exact execPlicThresholdLd_effect h
  | plicThresholdSt c v => exact execPlicThresholdSt_effect h
  | plicClaimLd c => exact execPlicClaimLd_effect h
  | plicCompleteSt c v => exact execPlicCompleteSt_effect h
  | plicRaiseIrq k level => exact execPlicRaiseIrq_effect h
  | plicUpdate => exact execPlicUpdate_effect h
  | plicIntCheck c => exact execPlicIntCheck_effect h
  | clintMsipLd h => exact execClintMsipLd_effect h
  | clintMsipSt h v => exact execClintMsipSt_effect h
  | clintMtimecmpLd64 h => exact execClintMtimecmpLd64_effect h
  | clintMtimecmpLdLo h => exact execClintMtimecmpLdLo_effect h
  | clintMtimecmpLdHi h => exact execClintMtimecmpLdHi_effect h
  | clintMtimecmpSt64 h v => exact execClintMtimecmpSt64_effect h
  | clintMtimecmpStLo h v => exact execClintMtimecmpStLo_effect h
  | clintMtimecmpStHi h v => exact execClintMtimecmpStHi_effect h
  | clintMtimeLd64 => exact execClintMtimeLd64_effect h
  | clintMtimeLdLo => exact execClintMtimeLdLo_effect h
  | clintMtimeLdHi => exact execClintMtimeLdHi_effect h
  | clintMtimeSt64 v => exact execClintMtimeSt64_effect h
  | clintMtimeStLo v => exact execClintMtimeStLo_effect h
  | clintMtimeStHi v => exact execClintMtimeStHi_effect h
  | clintIncrement delta => exact execClintIncrement_effect h
  | sdhcSysaddrLd i n => exact sdhcLoad_effect h
  | sdhcSysaddrSt i n v => exact sdhcStore_effect h
  | sdhcBlksizeLd i n => exact sdhcLoad_effect h
  | sdhcBlksizeSt i n v => exact sdhcStore_effect h
  | sdhcBlkcntLd i n => exact sdhcLoad_effect h
  | sdhcBlkcntSt i n v => exact sdhcStore_effect h
  | sdhcArgLd i n => exact sdhcLoad_effect h
  | sdhcArgSt i n v => exact sdhcStore_effect h
  | sdhcXfermodeLd i n => exact sdhcLoad_effect h
  | sdhcXfermodeSt i n v => exact sdhcStore_effect h
  | sdhcCmdLd i n => exact sdhcLoad_effect h
  | sdhcCmdSt i n v => exact sdhcStore_effect h
  | sdhcRespLd i n => exact sdhcLoad_effect h
  | sdhcRespSt i n v => exact sdhcStore_effect h
  | sdhcBufdataLd => exact sdhcLoad_effect h
  | sdhcBufdataSt v => exact sdhcStore_effect h
  | sdhcPrsntLd i n => exact sdhcLoad_effect h
  | sdhcPrsntSt i n v => exact sdhcStore_effect h
  | sdhcHostctlLd i n => exact sdhcLoad_effect h
  | sdhcHostctlSt i n v => exact sdhcStore_effect h
  | sdhcPwrctlLd i n => exact sdhcLoad_effect h
  | sdhcPwrctlSt i n v => exact sdhcStore_effect h
  | sdhcClkctlLd i n => exact sdhcLoad_effect h
  | sdhcClkctlSt i n v => exact sdhcStore_effect h
  | sdhcToctlLd i n => exact sdhcLoad_effect h
  | sdhcToctlSt i n v => exact sdhcStore_effect h
  | sdhcSwrstLd i n => exact sdhcLoad_effect h
  | sdhcSwrstSt i n v => exact sdhcStore_effect h
  | sdhcNistsLd i n => exact sdhcLoad_effect h
  | sdhcNistsSt i n v => exact sdhcStore_effect h
  | sdhcEistsLd i n => exact sdhcLoad_effect h
  | sdhcEistsSt i n v => exact sdhcStore_effect h
  | sdhcNistenLd i n => exact sdhcLoad_effect h
  | sdhcNistenSt i n v => exact sdhcStore_effect h
  | sdhcEistenLd i n => exact sdhcLoad_effect h
  | sdhcEistenSt i n v => exact sdhcStore_effect h
  | sdhcNisigenLd i n => exact sdhcLoad_effect h
  | sdhcNisigenSt i n v => exact sdhcStore_effect h
  | sdhcEisigenLd i n => exact sdhcLoad_effect h
  | sdhcEisigenSt i n v => exact sdhcStore_effect h
  | sdhcCapsLd i n => exact sdhcLoad_effect h
  | sdhcCapsSt i n v => exact sdhcStore_effect h
  | sdhcMaxcurLd i n => exact sdhcLoad_effect h
  | sdhcMaxcurSt i n v => exact sdhcStore_effect h
  | sdhcVersionLd i n => exact sdhcLoad_effect h
  | sdhcVersionSt i n v => exact sdhcStore_effect h
  | uartRbrLd => exact execUartRbrLd_effect h
  | uartThrSt v => exact execUartThrSt_effect h
  | uartDllLd => exact execUartDllLd_effect h
  | uartDllSt v => exact execUartDllSt_effect h
  | uartIerLd => exact execUartIerLd_effect h
  | uartIerSt v => exact execUartIerSt_effect h
  | uartDlmLd => exact execUartDlmLd_effect h
  | uartDlmSt v => exact execUartDlmSt_effect h
  | uartIirLd => exact execUartIirLd_effect h
  | uartFcrSt v => exact execUartFcrSt_effect h
  | uartLcrLd => exact execUartLcrLd_effect h
  | uartLcrSt v => exact execUartLcrSt_effect h
  | uartMcrLd => exact execUartMcrLd_effect h
  | uartMcrSt v => exact execUartMcrSt_effect h
  | uartLsrLd => exact execUartLsrLd_effect h
  | uartLsrSt v => exact execUartLsrSt_effect h
  | uartPsdLd => exact execUartPsdLd_effect h
  | uartPsdSt v => exact execUartPsdSt_effect h
  | uartMsrLd => exact execUartMsrLd_effect h
  | uartMsrSt v => exact execUartMsrSt_effect (v := v) h
  | uartScrLd => exact execUartScrLd_effect h
  | uartScrSt v => exact execUartScrSt_effect h
  | uartPoll => exact execUartPoll_effect h
  | uartHostInput bytes => exact execUartHostInput_effect h

/-- A record that is no row answers a next state only by failing as unmapped. -/
theorem rejectRecord_next {e : DecodeError} {s t : State} (h : rejectRecord e s = .next t) : t = s.respond .failed := by
  unfold rejectRecord at h
  split at h
  · split at h
    · split at h
      · exact failUnmapped_next.1 h
      · cases h
    · cases h
  · split at h
    · split at h
      · exact failUnmapped_next.1 h
      · cases h
      · cases h
    · cases h
  all_goals cases h

/-- What a step can do: nothing, with no transaction waiting; or take the oldest record, with the effect of one transaction. -/
theorem step_cases {s t : State} (h : step s = .next t) :
    (s.requests = [] ∧ t = s) ∨ ∃ record rest, s.requests = record :: rest ∧ Effect { s with requests := rest } t := by
  unfold step at h
  split at h
  · injection h with h; exact .inl ⟨‹_›, h.symm⟩
  · rename_i record rest hq
    refine .inr ⟨record, rest, hq, ?_⟩
    split at h
    · exact exec_effect h
    · rw [rejectRecord_next h]; exact .respond _ _

/-- A property of states that only looks at the configuration and the blocks is kept by a step if the moves keep it. -/
theorem step_keeps {P : State → Prop} (hq : ∀ s rest, P s → P { s with requests := rest })
    (hm : ∀ s t, P s → Effect s t → P t) {s t : State} (h : step s = .next t) (hs : P s) : P t := by
  rcases step_cases h with ⟨-, rfl⟩ | ⟨record, rest, -, he⟩
  · exact hs
  · exact hm _ _ (hq s rest hs) he

end Sys2Proof.Machine
end

