-- ==== Sys2Proof/Laws/Operands.lean ====
section
/-! SUPPORT. What the operand forms read and write, bit by bit and byte by byte. -/

namespace Sys2Proof.Machine

theorem getLsbD_putBit {w : Nat} (v : BitVec w) (k j : Nat) (b : Bool) :
    (putBit v k b).getLsbD j = if j = k ∧ k < w then b else v.getLsbD j := by
  unfold putBit
  by_cases hk : k < w
  · by_cases hj : j = k
    · subst hj
      cases b <;> simp [hk]
    · have hkj : ¬ k = j := fun h => hj h.symm
      cases b
      · by_cases hjw : j < w
        · simp [hj, hjw]
        · have : v.getLsbD j = false := BitVec.getLsbD_of_ge _ _ (by omega)
          simp [hj, this]
      · simp [hj, hkj, BitVec.getLsbD_twoPow]
  · have hz : BitVec.twoPow w k = 0#w := by
      apply BitVec.eq_of_getLsbD_eq
      intro i hi
      have : ¬ k = i := by omega
      simp [BitVec.getLsbD_twoPow, this]
    cases b <;> simp [hz, hk]

theorem getLsbD_getByte {w : Nat} (v : BitVec w) (i j : Nat) :
    (getByte v i).getLsbD j = (decide (j < 8) && v.getLsbD (8 * i + j)) := by
  simp [getByte, BitVec.getLsbD_extractLsb']

theorem getByte_putByte {w : Nat} (v : BitVec w) (i j : Nat) (b : Byte) (hi : 8 * i + 8 ≤ w) :
    getByte (putByte v i b) j = if j = i then b else getByte v j := by
  apply BitVec.eq_of_getLsbD_eq
  intro k hk
  have hb8 : ∀ m, 8 ≤ m → b.getLsbD m = false := fun m hm => BitVec.getLsbD_of_ge _ _ hm
  by_cases h : j = i
  · subst h
    rw [if_pos rfl, getLsbD_getByte]
    have hff : (0xFF#8).getLsbD k = true := by
      have : k = 0 ∨ k = 1 ∨ k = 2 ∨ k = 3 ∨ k = 4 ∨ k = 5 ∨ k = 6 ∨ k = 7 := by omega
      rcases this with rfl | rfl | rfl | rfl | rfl | rfl | rfl | rfl <;> rfl
    have h1 : 8 * j + k < w := by omega
    have h2 : k < w := by omega
    have h3 : ¬ 8 * j + k < 8 * j := by omega
    have h4 : 8 * j + k - 8 * j = k := by omega
    simp only [putByte, BitVec.getLsbD_or, BitVec.getLsbD_and, BitVec.getLsbD_not, BitVec.getLsbD_shiftLeft,
      BitVec.getLsbD_setWidth, h1, h2, h3, h4, hk, hff]
    simp
  · rw [if_neg h, getLsbD_getByte, getLsbD_getByte]
    by_cases hw : 8 * j + k < w
    · by_cases hlt : 8 * j + k < 8 * i
      · simp only [putByte, BitVec.getLsbD_or, BitVec.getLsbD_and, BitVec.getLsbD_not, BitVec.getLsbD_shiftLeft,
          BitVec.getLsbD_setWidth, hw, hlt, hk]
        simp
      · have hge : 8 ≤ 8 * j + k - 8 * i := by omega
        have hff : (0xFF#8).getLsbD (8 * j + k - 8 * i) = false := BitVec.getLsbD_of_ge _ _ hge
        simp only [putByte, BitVec.getLsbD_or, BitVec.getLsbD_and, BitVec.getLsbD_not, BitVec.getLsbD_shiftLeft,
          BitVec.getLsbD_setWidth, hw, hlt, hk, hff, hb8 _ hge]
        simp
    · have e1 : (putByte v i b).getLsbD (8 * j + k) = false := BitVec.getLsbD_of_ge _ _ (by omega)
      have e2 : v.getLsbD (8 * j + k) = false := BitVec.getLsbD_of_ge _ _ (by omega)
      rw [e1, e2]

/-- Two values of at most `n` bytes with the same bytes are the same. -/
theorem eq_of_getByte {w : Nat} (v u : BitVec w) (h : ∀ i, 8 * i < w → getByte v i = getByte u i) : v = u := by
  apply BitVec.eq_of_getLsbD_eq
  intro i hi
  have := congrArg (fun x : Byte => x.getLsbD (i % 8)) (h (i / 8) (by omega))
  simp only [getLsbD_getByte] at this
  have h8 : i % 8 < 8 := by omega
  have e : 8 * (i / 8) + i % 8 = i := by omega
  simpa [h8, e] using this

theorem toNat_lowBits (p : Nat) (v : Word) : (lowBits p v).toNat = v.toNat % 2 ^ p := by
  unfold lowBits
  rw [BitVec.toNat_and, BitVec.toNat_ofNat]
  by_cases hp : p ≤ 32
  · have h1 : 2 ^ p ≤ 2 ^ 32 := Nat.pow_le_pow_right (by omega) hp
    have h2 : 0 < 2 ^ p := Nat.two_pow_pos p
    rw [Nat.mod_eq_of_lt (by omega), Nat.and_two_pow_sub_one_eq_mod]
  · have hv : v.toNat < 2 ^ 32 := v.isLt
    have h1 : 2 ^ 32 ≤ 2 ^ p := Nat.pow_le_pow_right (by omega) (by omega)
    have e : (2 ^ p - 1) % 2 ^ 32 = 2 ^ 32 - 1 := by
      have hd : 2 ^ p = 2 ^ 32 * 2 ^ (p - 32) := by rw [← Nat.pow_add]; congr 1; omega
      have h3 : 0 < 2 ^ (p - 32) := Nat.two_pow_pos _
      have : 2 ^ p - 1 = (2 ^ 32 - 1) + 2 ^ 32 * (2 ^ (p - 32) - 1) := by
        rw [hd, Nat.mul_sub]; omega
      rw [this, Nat.add_mul_mod_self_left]; rfl
    rw [e, Nat.and_two_pow_sub_one_eq_mod, Nat.mod_eq_of_lt hv, Nat.mod_eq_of_lt (by omega)]

theorem getLsbD_sourceMask (n k : Nat) (hn : n ≤ 1023) : (sourceMask n).getLsbD k = decide (1 ≤ k ∧ k ≤ n) := by
  unfold sourceMask
  rw [BitVec.getLsbD_ofNat]
  have e : 2 ^ (n + 1) - 2 = 2 * (2 ^ n - 1) := by rw [Nat.pow_succ]; omega
  rw [e]
  cases k with
  | zero => simp
  | succ k =>
    have : (2 * (2 ^ n - 1)).testBit (k + 1) = (2 ^ n - 1).testBit k := by
      rw [Nat.testBit_succ]; congr 1; omega
    rw [this, Nat.testBit_two_pow_sub_one]
    by_cases h : k < n
    · have h1 : k + 1 < 1024 := by omega
      simp [h, h1]
    · simp [h]

theorem getLsbD_bitmapWord (n : Nat) (m : Bitmap) (w b : Nat) (hn : n ≤ 1023) :
    (bitmapWord n m w).getLsbD b = (decide (b < 32) && decide (1 ≤ 32 * w + b ∧ 32 * w + b ≤ n) && m.getLsbD (32 * w + b)) := by
  unfold bitmapWord
  rw [BitVec.getLsbD_extractLsb', BitVec.getLsbD_and, getLsbD_sourceMask _ _ hn]
  cases decide (b < 32) <;> cases decide (1 ≤ 32 * w + b ∧ 32 * w + b ≤ n) <;> cases m.getLsbD (32 * w + b) <;> rfl

theorem getLsbD_putBitmapWord (n : Nat) (m : Bitmap) (w k : Nat) (v : Word) (hn : n ≤ 1023) :
    (putBitmapWord n m w v).getLsbD k =
      if k / 32 = w ∧ (1 ≤ k ∧ k ≤ n) then v.getLsbD (k % 32) else m.getLsbD k := by
  unfold putBitmapWord wordMask
  rw [BitVec.getLsbD_or, BitVec.getLsbD_and, BitVec.getLsbD_not, BitVec.getLsbD_and, BitVec.getLsbD_and,
    getLsbD_sourceMask _ _ hn, BitVec.getLsbD_shiftLeft, BitVec.getLsbD_shiftLeft, BitVec.getLsbD_setWidth,
    BitVec.getLsbD_setWidth]
  by_cases hk : k < 1024
  · by_cases hs : 1 ≤ k ∧ k ≤ n
    · by_cases hw : k / 32 = w
      · subst hw
        have h1 : ¬ k < 32 * (k / 32) := by omega
        have h2 : k - 32 * (k / 32) = k % 32 := by omega
        have h3 : k % 32 < 32 := by omega
        have hff : (0xFFFFFFFF#32).getLsbD (k % 32) = true := by
          have : (0xFFFFFFFF#32) = BitVec.allOnes 32 := by decide
          rw [this, BitVec.getLsbD_allOnes]; simp [h3]
        have h4 : k % 32 < 1024 := by omega
        simp [hk, hs, h1, h2, h4, hff]
      · have hv : decide (k < 32 * w) = true ∨ 32 ≤ k - 32 * w := by
          by_cases h : k < 32 * w
          · exact .inl (by simpa using h)
          · exact .inr (by omega)
        rcases hv with h | h
        · simp [hk, hs, hw, of_decide_eq_true h]
        · have e1 : (0xFFFFFFFF#32).getLsbD (k - 32 * w) = false := BitVec.getLsbD_of_ge _ _ h
          have e2 : v.getLsbD (k - 32 * w) = false := BitVec.getLsbD_of_ge _ _ h
          simp [hk, hs, hw, e1, e2]
    · simp [hk, hs]
  · have e : m.getLsbD k = false := BitVec.getLsbD_of_ge _ _ (by omega)
    have hs : ¬ (1 ≤ k ∧ k ≤ n) := by omega
    simp [hk, hs, e]

theorem toNat_lowHalf (v : DWord) : (lowHalf v).toNat = v.toNat % 2 ^ 32 := by
  simp [lowHalf, BitVec.extractLsb'_toNat]

theorem toNat_highHalf (v : DWord) : (highHalf v).toNat = v.toNat / 2 ^ 32 := by
  have := v.isLt
  simp only [highHalf, BitVec.extractLsb'_toNat, Nat.shiftRight_eq_div_pow]
  omega

theorem toNat_halves (hi lo : Word) : (hi ++ lo : BitVec (32 + 32)).toNat = hi.toNat * 2 ^ 32 + lo.toNat := by
  have := lo.isLt
  rw [BitVec.toNat_append, Nat.shiftLeft_eq]
  exact (Nat.mul_comm (2 ^ 32) hi.toNat ▸ (Nat.two_pow_add_eq_or_of_lt this hi.toNat).symm)

end Sys2Proof.Machine
end

