-- ==== Sys2Proof/Laws/PerInstr.lean ====
section
/-! SUPPORT. The family `Encodable`: every well-formed transaction's record decodes to it, with every operand. -/

namespace Sys2Proof.Laws.Encodable

/-- A well-formed transaction's record decodes to that transaction. -/
def Statement (i : Instr) : Prop := i.wf = true → decode (encode i) = .ok i

theorem busLoad (addr : DWord) (n : Nat) : Statement (.busLoad addr n) := by
  intro h
  replace h := of_decide_eq_true h
  rw [decode_encode]
  have e : (BitVec.ofNat 8 (n - 1)).toNat + 1 = n := by rw [BitVec.toNat_ofNat]; omega
  simp [decodeFrame, decodeLoad, Instr.frame, orReserved, e, -BitVec.toNat_ofNat]

theorem busStore (addr : DWord) (n : Nat) (v : DWord) : Statement (.busStore addr n v) := by
  intro h
  replace h := of_decide_eq_true h
  rw [decode_encode]
  have e : (BitVec.ofNat 8 (n - 1)).toNat + 1 = n := by rw [BitVec.toNat_ofNat]; omega
  simp [decodeFrame, decodeStore, Instr.frame, orReserved, e, -BitVec.toNat_ofNat]

theorem busAddDevice (on : Nat) (base : DWord) (d : Device) : Statement (.busAddDevice on base d) := by
  intro h
  simp only [Instr.wf, Bool.and_eq_true, decide_eq_true_eq] at h
  obtain ⟨ho, hd⟩ := h
  rw [decode_encode]
  have e : (BitVec.ofNat 8 on).toNat = on := by rw [BitVec.toNat_ofNat]; omega
  cases d with
  | plic => simp [decodeFrame, decodePort, Instr.frame, deviceFrame, frameDevice, orReserved, e, Device.operandOk, -BitVec.toNat_ofNat]
  | clint => simp [decodeFrame, decodePort, Instr.frame, deviceFrame, frameDevice, orReserved, e, Device.operandOk, -BitVec.toNat_ofNat]
  | uart => simp [decodeFrame, decodePort, Instr.frame, deviceFrame, frameDevice, orReserved, e, Device.operandOk, -BitVec.toNat_ofNat]
  | sdhc => simp [decodeFrame, decodePort, Instr.frame, deviceFrame, frameDevice, orReserved, e, Device.operandOk, -BitVec.toNat_ofNat]
  | bus id size =>
    have h := of_decide_eq_true hd
    have e1 : (BitVec.ofNat 64 id).toNat = id := by rw [BitVec.toNat_ofNat]; omega
    have e2 : (BitVec.ofNat 64 size).toNat = size := by rw [BitVec.toNat_ofNat]; omega
    have hd' : (Device.bus id size).operandOk on = true := hd
    simp [decodeFrame, decodePort, Instr.frame, deviceFrame, frameDevice, orReserved, e, e1, e2, hd', -BitVec.toNat_ofNat]
  | other id size =>
    have h := of_decide_eq_true hd
    have e1 : (BitVec.ofNat 64 id).toNat = id := by rw [BitVec.toNat_ofNat]; omega
    have e2 : (BitVec.ofNat 64 size).toNat = size := by rw [BitVec.toNat_ofNat]; omega
    have hd' : (Device.other id size).operandOk on = true := hd
    simp [decodeFrame, decodePort, Instr.frame, deviceFrame, frameDevice, orReserved, e, e1, e2, hd', -BitVec.toNat_ofNat]

theorem busFindDevice (addr : DWord) : Statement (.busFindDevice addr) := by
  intro _; rw [decode_encode]; rfl

theorem plicPriorityLd (k : Nat) : Statement (.plicPriorityLd k) := by
  intro h
  replace h := of_decide_eq_true h
  rw [decode_encode]
  refine (decodeFrame_plicLoad (by simp only [PlicSlot.offset]; omega) (by simp only [PlicSlot.offset]; omega)).trans ?_
  rw [plicSlot_priority h]; rfl

theorem plicPrioritySt (k : Nat) (v : Word) : Statement (.plicPrioritySt k v) := by
  intro h
  replace h := of_decide_eq_true h
  rw [decode_encode]
  refine (decodeFrame_plicStore v (by simp only [PlicSlot.offset]; omega) (by simp only [PlicSlot.offset]; omega)).trans ?_
  rw [plicSlot_priority h]; rfl

theorem plicPendingLd (w : Nat) : Statement (.plicPendingLd w) := by
  intro h
  replace h := of_decide_eq_true h
  rw [decode_encode]
  refine (decodeFrame_plicLoad (by simp only [PlicSlot.offset]; omega) (by simp only [PlicSlot.offset]; omega)).trans ?_
  rw [plicSlot_pending h]; rfl

theorem plicPendingSt (w : Nat) (v : Word) : Statement (.plicPendingSt w v) := by
  intro h
  replace h := of_decide_eq_true h
  rw [decode_encode]
  refine (decodeFrame_plicStore v (by simp only [PlicSlot.offset]; omega) (by simp only [PlicSlot.offset]; omega)).trans ?_
  rw [plicSlot_pending h]; rfl

theorem plicEnableLd (c : Nat) (w : Nat) : Statement (.plicEnableLd c w) := by
  intro h
  replace h := of_decide_eq_true h
  rw [decode_encode]
  refine (decodeFrame_plicLoad (by simp only [PlicSlot.offset]; omega) (by simp only [PlicSlot.offset]; omega)).trans ?_
  rw [plicSlot_enable h.1 h.2]; rfl

theorem plicEnableSt (c : Nat) (w : Nat) (v : Word) : Statement (.plicEnableSt c w v) := by
  intro h
  replace h := of_decide_eq_true h
  rw [decode_encode]
  refine (decodeFrame_plicStore v (by simp only [PlicSlot.offset]; omega) (by simp only [PlicSlot.offset]; omega)).trans ?_
  rw [plicSlot_enable h.1 h.2]; rfl

theorem plicThresholdLd (c : Nat) : Statement (.plicThresholdLd c) := by
  intro h
  replace h := of_decide_eq_true h
  rw [decode_encode]
  refine (decodeFrame_plicLoad (by simp only [PlicSlot.offset]; omega) (by simp only [PlicSlot.offset]; omega)).trans ?_
  rw [plicSlot_threshold h]; rfl

theorem plicThresholdSt (c : Nat) (v : Word) : Statement (.plicThresholdSt c v) := by
  intro h
  replace h := of_decide_eq_true h
  rw [decode_encode]
  refine (decodeFrame_plicStore v (by simp only [PlicSlot.offset]; omega) (by simp only [PlicSlot.offset]; omega)).trans ?_
  rw [plicSlot_threshold h]; rfl

theorem plicClaimLd (c : Nat) : Statement (.plicClaimLd c) := by
  intro h
  replace h := of_decide_eq_true h
  rw [decode_encode]
  refine (decodeFrame_plicLoad (by simp only [PlicSlot.offset]; omega) (by simp only [PlicSlot.offset]; omega)).trans ?_
  rw [plicSlot_claim h]; rfl

theorem plicCompleteSt (c : Nat) (v : Word) : Statement (.plicCompleteSt c v) := by
  intro h
  replace h := of_decide_eq_true h
  rw [decode_encode]
  refine (decodeFrame_plicStore v (by simp only [PlicSlot.offset]; omega) (by simp only [PlicSlot.offset]; omega)).trans ?_
  rw [plicSlot_claim h]; rfl

theorem plicRaiseIrq (k : Nat) (level : Bool) : Statement (.plicRaiseIrq k level) := by
  intro h
  replace h := of_decide_eq_true h
  rw [decode_encode]
  have e : (BitVec.ofNat 64 k).toNat = k := by rw [BitVec.toNat_ofNat]; exact Nat.mod_eq_of_lt h
  cases level <;> simp [decodeFrame, decodePort, Instr.frame, portFrame, orReserved, e, -BitVec.toNat_ofNat]

theorem plicUpdate : Statement (.plicUpdate) := by
  intro _; rfl

theorem plicIntCheck (c : Nat) : Statement (.plicIntCheck c) := by
  intro h
  replace h := of_decide_eq_true h
  rw [decode_encode]
  have e : (BitVec.ofNat 64 c).toNat = c := by rw [BitVec.toNat_ofNat]; exact Nat.mod_eq_of_lt h
  simp [decodeFrame, decodePort, Instr.frame, portFrame, orReserved, e, -BitVec.toNat_ofNat]

theorem clintMsipLd (h : Nat) : Statement (.clintMsipLd h) := by
  intro h
  replace h := of_decide_eq_true h
  rw [decode_encode]
  refine (decodeFrame_clintLoad (by simp only [ClintSlot.offset]; omega) (by omega)).trans ?_
  rw [clintSlot_msip 0 h]; rfl

theorem clintMsipSt (h : Nat) (v : Word) : Statement (.clintMsipSt h v) := by
  intro h
  replace h := of_decide_eq_true h
  rw [decode_encode]
  refine (decodeFrame_clintStore4 v (by simp only [ClintSlot.offset]; omega)).trans ?_
  rw [clintSlot_msip 0 h]; simp [clintStoreRow, rowOr, orReserved]

theorem clintMtimecmpLd64 (h : Nat) : Statement (.clintMtimecmpLd64 h) := by
  intro h
  replace h := of_decide_eq_true h
  rw [decode_encode]
  refine (decodeFrame_clintLoad (by simp only [ClintSlot.offset]; omega) (by omega)).trans ?_
  rw [clintSlot_cmp64 0 h]; rfl

theorem clintMtimecmpLdLo (h : Nat) : Statement (.clintMtimecmpLdLo h) := by
  intro h
  replace h := of_decide_eq_true h
  rw [decode_encode]
  refine (decodeFrame_clintLoad (by simp only [ClintSlot.offset]; omega) (by omega)).trans ?_
  rw [clintSlot_cmpLo 0 h]; rfl

theorem clintMtimecmpLdHi (h : Nat) : Statement (.clintMtimecmpLdHi h) := by
  intro h
  replace h := of_decide_eq_true h
  rw [decode_encode]
  refine (decodeFrame_clintLoad (by simp only [ClintSlot.offset]; omega) (by omega)).trans ?_
  rw [clintSlot_cmpHi 0 h]; rfl

theorem clintMtimecmpSt64 (h : Nat) (v : DWord) : Statement (.clintMtimecmpSt64 h v) := by
  intro h
  replace h := of_decide_eq_true h
  rw [decode_encode]
  refine (decodeFrame_clintStore8 v (by simp only [ClintSlot.offset]; omega)).trans ?_
  rw [clintSlot_cmp64 0 h]; rfl

theorem clintMtimecmpStLo (h : Nat) (v : Word) : Statement (.clintMtimecmpStLo h v) := by
  intro h
  replace h := of_decide_eq_true h
  rw [decode_encode]
  refine (decodeFrame_clintStore4 v (by simp only [ClintSlot.offset]; omega)).trans ?_
  rw [clintSlot_cmpLo 0 h]; simp [clintStoreRow, rowOr, orReserved]

theorem clintMtimecmpStHi (h : Nat) (v : Word) : Statement (.clintMtimecmpStHi h v) := by
  intro h
  replace h := of_decide_eq_true h
  rw [decode_encode]
  refine (decodeFrame_clintStore4 v (by simp only [ClintSlot.offset]; omega)).trans ?_
  rw [clintSlot_cmpHi 0 h]; simp [clintStoreRow, rowOr, orReserved]

theorem clintMtimeLd64 : Statement (.clintMtimeLd64) := by
  intro _; rfl

theorem clintMtimeLdLo : Statement (.clintMtimeLdLo) := by
  intro _; rfl

theorem clintMtimeLdHi : Statement (.clintMtimeLdHi) := by
  intro _; rfl

theorem clintMtimeSt64 (v : DWord) : Statement (.clintMtimeSt64 v) := by
  intro _; rw [decode_encode]; exact decodeFrame_clintStore8 v (by decide)

theorem clintMtimeStLo (v : Word) : Statement (.clintMtimeStLo v) := by
  intro _; rw [decode_encode]
  refine (decodeFrame_clintStore4 v (by decide)).trans ?_
  have e : clintSlot 0 0xBFF8 4 = .timeLo := rfl
  simp [ClintSlot.offset, e, clintStoreRow, rowOr, orReserved]

theorem clintMtimeStHi (v : Word) : Statement (.clintMtimeStHi v) := by
  intro _; rw [decode_encode]
  refine (decodeFrame_clintStore4 v (by decide)).trans ?_
  have e : clintSlot 0 0xBFFC 4 = .timeHi := rfl
  simp [ClintSlot.offset, e, clintStoreRow, rowOr, orReserved]

theorem clintIncrement (delta : DWord) : Statement (.clintIncrement delta) := by
  intro _; rw [decode_encode]; rfl

theorem sdhcSysaddrLd (i : Nat) (n : Nat) : Statement (.sdhcSysaddrLd i n) := by
  intro h; rw [decode_encode]; exact decodeFrame_sdhcLoad .sysaddr (by decide) h

theorem sdhcSysaddrSt (i : Nat) (n : Nat) (v : DWord) : Statement (.sdhcSysaddrSt i n v) := by
  intro h; rw [decode_encode]; exact decodeFrame_sdhcStore .sysaddr v (by decide) h

theorem sdhcBlksizeLd (i : Nat) (n : Nat) : Statement (.sdhcBlksizeLd i n) := by
  intro h; rw [decode_encode]; exact decodeFrame_sdhcLoad .blksize (by decide) h

theorem sdhcBlksizeSt (i : Nat) (n : Nat) (v : DWord) : Statement (.sdhcBlksizeSt i n v) := by
  intro h; rw [decode_encode]; exact decodeFrame_sdhcStore .blksize v (by decide) h

theorem sdhcBlkcntLd (i : Nat) (n : Nat) : Statement (.sdhcBlkcntLd i n) := by
  intro h; rw [decode_encode]; exact decodeFrame_sdhcLoad .blkcnt (by decide) h

theorem sdhcBlkcntSt (i : Nat) (n : Nat) (v : DWord) : Statement (.sdhcBlkcntSt i n v) := by
  intro h; rw [decode_encode]; exact decodeFrame_sdhcStore .blkcnt v (by decide) h

theorem sdhcArgLd (i : Nat) (n : Nat) : Statement (.sdhcArgLd i n) := by
  intro h; rw [decode_encode]; exact decodeFrame_sdhcLoad .arg (by decide) h

theorem sdhcArgSt (i : Nat) (n : Nat) (v : DWord) : Statement (.sdhcArgSt i n v) := by
  intro h; rw [decode_encode]; exact decodeFrame_sdhcStore .arg v (by decide) h

theorem sdhcXfermodeLd (i : Nat) (n : Nat) : Statement (.sdhcXfermodeLd i n) := by
  intro h; rw [decode_encode]; exact decodeFrame_sdhcLoad .xfermode (by decide) h

theorem sdhcXfermodeSt (i : Nat) (n : Nat) (v : DWord) : Statement (.sdhcXfermodeSt i n v) := by
  intro h; rw [decode_encode]; exact decodeFrame_sdhcStore .xfermode v (by decide) h

theorem sdhcCmdLd (i : Nat) (n : Nat) : Statement (.sdhcCmdLd i n) := by
  intro h; rw [decode_encode]; exact decodeFrame_sdhcLoad .cmd (by decide) h

theorem sdhcCmdSt (i : Nat) (n : Nat) (v : DWord) : Statement (.sdhcCmdSt i n v) := by
  intro h; rw [decode_encode]; exact decodeFrame_sdhcStore .cmd v (by decide) h

theorem sdhcRespLd (i : Nat) (n : Nat) : Statement (.sdhcRespLd i n) := by
  intro h; rw [decode_encode]; exact decodeFrame_sdhcLoad .resp (by decide) h

theorem sdhcRespSt (i : Nat) (n : Nat) (v : DWord) : Statement (.sdhcRespSt i n v) := by
  intro h; rw [decode_encode]; exact decodeFrame_sdhcStore .resp v (by decide) h

theorem sdhcBufdataLd : Statement (.sdhcBufdataLd) := by
  intro _; rfl

theorem sdhcBufdataSt (v : Word) : Statement (.sdhcBufdataSt v) := by
  intro _; rw [decode_encode]
  have hv : v.toNat < 4294967296 := v.isLt
  have hm : v.toNat % 18446744073709551616 = v.toNat := Nat.mod_eq_of_lt (by omega)
  have e : sdhcOwner 32 = some (.bufdata, 0) := rfl
  simp [decodeFrame, decodeStore, Instr.frame, storeFrame, SdhcReg.lo, e, rowOr, orReserved, hv, hm]

theorem sdhcPrsntLd (i : Nat) (n : Nat) : Statement (.sdhcPrsntLd i n) := by
  intro h; rw [decode_encode]; exact decodeFrame_sdhcLoad .prsnt (by decide) h

theorem sdhcPrsntSt (i : Nat) (n : Nat) (v : DWord) : Statement (.sdhcPrsntSt i n v) := by
  intro h; rw [decode_encode]; exact decodeFrame_sdhcStore .prsnt v (by decide) h

theorem sdhcHostctlLd (i : Nat) (n : Nat) : Statement (.sdhcHostctlLd i n) := by
  intro h; rw [decode_encode]; exact decodeFrame_sdhcLoad .hostctl (by decide) h

theorem sdhcHostctlSt (i : Nat) (n : Nat) (v : DWord) : Statement (.sdhcHostctlSt i n v) := by
  intro h; rw [decode_encode]; exact decodeFrame_sdhcStore .hostctl v (by decide) h

theorem sdhcPwrctlLd (i : Nat) (n : Nat) : Statement (.sdhcPwrctlLd i n) := by
  intro h; rw [decode_encode]; exact decodeFrame_sdhcLoad .pwrctl (by decide) h

theorem sdhcPwrctlSt (i : Nat) (n : Nat) (v : DWord) : Statement (.sdhcPwrctlSt i n v) := by
  intro h; rw [decode_encode]; exact decodeFrame_sdhcStore .pwrctl v (by decide) h

theorem sdhcClkctlLd (i : Nat) (n : Nat) : Statement (.sdhcClkctlLd i n) := by
  intro h; rw [decode_encode]; exact decodeFrame_sdhcLoad .clkctl (by decide) h

theorem sdhcClkctlSt (i : Nat) (n : Nat) (v : DWord) : Statement (.sdhcClkctlSt i n v) := by
  intro h; rw [decode_encode]; exact decodeFrame_sdhcStore .clkctl v (by decide) h

theorem sdhcToctlLd (i : Nat) (n : Nat) : Statement (.sdhcToctlLd i n) := by
  intro h; rw [decode_encode]; exact decodeFrame_sdhcLoad .toctl (by decide) h

theorem sdhcToctlSt (i : Nat) (n : Nat) (v : DWord) : Statement (.sdhcToctlSt i n v) := by
  intro h; rw [decode_encode]; exact decodeFrame_sdhcStore .toctl v (by decide) h

theorem sdhcSwrstLd (i : Nat) (n : Nat) : Statement (.sdhcSwrstLd i n) := by
  intro h; rw [decode_encode]; exact decodeFrame_sdhcLoad .swrst (by decide) h

theorem sdhcSwrstSt (i : Nat) (n : Nat) (v : DWord) : Statement (.sdhcSwrstSt i n v) := by
  intro h; rw [decode_encode]; exact decodeFrame_sdhcStore .swrst v (by decide) h

theorem sdhcNistsLd (i : Nat) (n : Nat) : Statement (.sdhcNistsLd i n) := by
  intro h; rw [decode_encode]; exact decodeFrame_sdhcLoad .nists (by decide) h

theorem sdhcNistsSt (i : Nat) (n : Nat) (v : DWord) : Statement (.sdhcNistsSt i n v) := by
  intro h; rw [decode_encode]; exact decodeFrame_sdhcStore .nists v (by decide) h

theorem sdhcEistsLd (i : Nat) (n : Nat) : Statement (.sdhcEistsLd i n) := by
  intro h; rw [decode_encode]; exact decodeFrame_sdhcLoad .eists (by decide) h

theorem sdhcEistsSt (i : Nat) (n : Nat) (v : DWord) : Statement (.sdhcEistsSt i n v) := by
  intro h; rw [decode_encode]; exact decodeFrame_sdhcStore .eists v (by decide) h

theorem sdhcNistenLd (i : Nat) (n : Nat) : Statement (.sdhcNistenLd i n) := by
  intro h; rw [decode_encode]; exact decodeFrame_sdhcLoad .nisten (by decide) h

theorem sdhcNistenSt (i : Nat) (n : Nat) (v : DWord) : Statement (.sdhcNistenSt i n v) := by
  intro h; rw [decode_encode]; exact decodeFrame_sdhcStore .nisten v (by decide) h

theorem sdhcEistenLd (i : Nat) (n : Nat) : Statement (.sdhcEistenLd i n) := by
  intro h; rw [decode_encode]; exact decodeFrame_sdhcLoad .eisten (by decide) h

theorem sdhcEistenSt (i : Nat) (n : Nat) (v : DWord) : Statement (.sdhcEistenSt i n v) := by
  intro h; rw [decode_encode]; exact decodeFrame_sdhcStore .eisten v (by decide) h

theorem sdhcNisigenLd (i : Nat) (n : Nat) : Statement (.sdhcNisigenLd i n) := by
  intro h; rw [decode_encode]; exact decodeFrame_sdhcLoad .nisigen (by decide) h

theorem sdhcNisigenSt (i : Nat) (n : Nat) (v : DWord) : Statement (.sdhcNisigenSt i n v) := by
  intro h; rw [decode_encode]; exact decodeFrame_sdhcStore .nisigen v (by decide) h

theorem sdhcEisigenLd (i : Nat) (n : Nat) : Statement (.sdhcEisigenLd i n) := by
  intro h; rw [decode_encode]; exact decodeFrame_sdhcLoad .eisigen (by decide) h

theorem sdhcEisigenSt (i : Nat) (n : Nat) (v : DWord) : Statement (.sdhcEisigenSt i n v) := by
  intro h; rw [decode_encode]; exact decodeFrame_sdhcStore .eisigen v (by decide) h

theorem sdhcCapsLd (i : Nat) (n : Nat) : Statement (.sdhcCapsLd i n) := by
  intro h; rw [decode_encode]; exact decodeFrame_sdhcLoad .caps (by decide) h

theorem sdhcCapsSt (i : Nat) (n : Nat) (v : DWord) : Statement (.sdhcCapsSt i n v) := by
  intro h; rw [decode_encode]; exact decodeFrame_sdhcStore .caps v (by decide) h

theorem sdhcMaxcurLd (i : Nat) (n : Nat) : Statement (.sdhcMaxcurLd i n) := by
  intro h; rw [decode_encode]; exact decodeFrame_sdhcLoad .maxcur (by decide) h

theorem sdhcMaxcurSt (i : Nat) (n : Nat) (v : DWord) : Statement (.sdhcMaxcurSt i n v) := by
  intro h; rw [decode_encode]; exact decodeFrame_sdhcStore .maxcur v (by decide) h

theorem sdhcVersionLd (i : Nat) (n : Nat) : Statement (.sdhcVersionLd i n) := by
  intro h; rw [decode_encode]; exact decodeFrame_sdhcLoad .version (by decide) h

theorem sdhcVersionSt (i : Nat) (n : Nat) (v : DWord) : Statement (.sdhcVersionSt i n v) := by
  intro h; rw [decode_encode]; exact decodeFrame_sdhcStore .version v (by decide) h

theorem uartRbrLd : Statement (.uartRbrLd) := by
  intro _; rfl

theorem uartThrSt (v : Byte) : Statement (.uartThrSt v) := by
  intro _; rw [decode_encode]
  have hv := byte_fits v
  simp only [Instr.frame, uartStoreFrame, decodeFrame, decodeStore, hv.1, hv.2]
  rfl

theorem uartDllLd : Statement (.uartDllLd) := by
  intro _; rfl

theorem uartDllSt (v : Byte) : Statement (.uartDllSt v) := by
  intro _; rw [decode_encode]
  have hv := byte_fits v
  simp only [Instr.frame, uartStoreFrame, decodeFrame, decodeStore, hv.1, hv.2]
  rfl

theorem uartIerLd : Statement (.uartIerLd) := by
  intro _; rfl

theorem uartIerSt (v : Byte) : Statement (.uartIerSt v) := by
  intro _; rw [decode_encode]
  have hv := byte_fits v
  simp only [Instr.frame, uartStoreFrame, decodeFrame, decodeStore, hv.1, hv.2]
  rfl

theorem uartDlmLd : Statement (.uartDlmLd) := by
  intro _; rfl

theorem uartDlmSt (v : Byte) : Statement (.uartDlmSt v) := by
  intro _; rw [decode_encode]
  have hv := byte_fits v
  simp only [Instr.frame, uartStoreFrame, decodeFrame, decodeStore, hv.1, hv.2]
  rfl

theorem uartIirLd : Statement (.uartIirLd) := by
  intro _; rfl

theorem uartFcrSt (v : Byte) : Statement (.uartFcrSt v) := by
  intro _; rw [decode_encode]
  have hv := byte_fits v
  simp only [Instr.frame, uartStoreFrame, decodeFrame, decodeStore, hv.1, hv.2]
  rfl

theorem uartLcrLd : Statement (.uartLcrLd) := by
  intro _; rfl

theorem uartLcrSt (v : Byte) : Statement (.uartLcrSt v) := by
  intro _; rw [decode_encode]
  have hv := byte_fits v
  simp only [Instr.frame, uartStoreFrame, decodeFrame, decodeStore, hv.1, hv.2]
  rfl

theorem uartMcrLd : Statement (.uartMcrLd) := by
  intro _; rfl

theorem uartMcrSt (v : Byte) : Statement (.uartMcrSt v) := by
  intro _; rw [decode_encode]
  have hv := byte_fits v
  simp only [Instr.frame, uartStoreFrame, decodeFrame, decodeStore, hv.1, hv.2]
  rfl

theorem uartLsrLd : Statement (.uartLsrLd) := by
  intro _; rfl

theorem uartLsrSt (v : Byte) : Statement (.uartLsrSt v) := by
  intro _; rw [decode_encode]
  have hv := byte_fits v
  simp only [Instr.frame, uartStoreFrame, decodeFrame, decodeStore, hv.1, hv.2]
  rfl

theorem uartPsdLd : Statement (.uartPsdLd) := by
  intro _; rfl

theorem uartPsdSt (v : Byte) : Statement (.uartPsdSt v) := by
  intro _; rw [decode_encode]
  have hv := byte_fits v
  simp only [Instr.frame, uartStoreFrame, decodeFrame, decodeStore, hv.1, hv.2]
  rfl

theorem uartMsrLd : Statement (.uartMsrLd) := by
  intro _; rfl

theorem uartMsrSt (v : Byte) : Statement (.uartMsrSt v) := by
  intro _; rw [decode_encode]
  have hv := byte_fits v
  simp only [Instr.frame, uartStoreFrame, decodeFrame, decodeStore, hv.1, hv.2]
  rfl

theorem uartScrLd : Statement (.uartScrLd) := by
  intro _; rfl

theorem uartScrSt (v : Byte) : Statement (.uartScrSt v) := by
  intro _; rw [decode_encode]
  have hv := byte_fits v
  simp only [Instr.frame, uartStoreFrame, decodeFrame, decodeStore, hv.1, hv.2]
  rfl

theorem uartPoll : Statement (.uartPoll) := by
  intro _; rfl

theorem uartHostInput (bytes : List Byte) : Statement (.uartHostInput bytes) := by
  intro _; rw [decode_encode]; rfl

end Sys2Proof.Laws.Encodable
end

