-- ==== Sys2Proof/Laws/Plic.lean ====
section
/-! SUPPORT. Everything each PLIC operation does: `update`, the claim and pending bits, `raise_irq`, `claim` and `complete`. -/

namespace Sys2Proof.Machine

theorem Plic.claimedByAny_eq_false (cfg : Config) (p : Plic) (k : Nat) :
    p.claimedByAny cfg k = false ↔ ∀ c, c < cfg.plicNumContexts → (p.claimedOf c).getLsbD k = false := by
  simp [Plic.claimedByAny]

/-- The computed predicate is the spec's. -/
theorem Plic.eligible_iff (cfg : Config) (p : Plic) (c k : Nat) : p.eligible cfg c k = true ↔ p.Eligible cfg c k := by
  unfold Plic.eligible Plic.Eligible
  rw [← Plic.claimedByAny_eq_false]
  simp only [Bool.and_eq_true, Bool.not_eq_true', decide_eq_true_eq, BitVec.lt_def]
  tauto

theorem Plic.anyEligible_iff (cfg : Config) (p : Plic) (c : Nat) :
    p.anyEligible cfg c = true ↔ ∃ k, IsSource cfg k ∧ p.Eligible cfg c k := by
  unfold Plic.anyEligible
  simp only [List.any_eq_true, List.mem_range, Plic.eligible_iff]
  constructor
  · rintro ⟨j, hj, h⟩; exact ⟨j + 1, ⟨by omega, by omega⟩, h⟩
  · rintro ⟨k, ⟨h1, h2⟩, h⟩; exact ⟨k - 1, by omega, by rwa [Nat.sub_add_cancel h1]⟩

/-! ### `update` -/

@[simp] theorem Plic.update_priority (cfg : Config) (p : Plic) : (p.update cfg).priority = p.priority := rfl
@[simp] theorem Plic.update_pending (cfg : Config) (p : Plic) : (p.update cfg).pending = p.pending := rfl
@[simp] theorem Plic.update_enabled (cfg : Config) (p : Plic) : (p.update cfg).enabled = p.enabled := rfl
@[simp] theorem Plic.update_threshold (cfg : Config) (p : Plic) : (p.update cfg).threshold = p.threshold := rfl
@[simp] theorem Plic.update_claimed (cfg : Config) (p : Plic) : (p.update cfg).claimed = p.claimed := rfl
@[simp] theorem Plic.update_prio (cfg : Config) (p : Plic) (k : Nat) : (p.update cfg).prio k = p.prio k := rfl
@[simp] theorem Plic.update_thresh (cfg : Config) (p : Plic) (c : Nat) : (p.update cfg).thresh c = p.thresh c := rfl
@[simp] theorem Plic.update_enabledOf (cfg : Config) (p : Plic) (c : Nat) : (p.update cfg).enabledOf c = p.enabledOf c := rfl
@[simp] theorem Plic.update_claimedOf (cfg : Config) (p : Plic) (c : Nat) : (p.update cfg).claimedOf c = p.claimedOf c := rfl
@[simp] theorem Plic.update_Eligible (cfg : Config) (p : Plic) (c k : Nat) :
    (p.update cfg).Eligible cfg c k ↔ p.Eligible cfg c k := Iff.rfl

theorem Plic.update_lineOf (cfg : Config) (p : Plic) (c : Nat) :
    (p.update cfg).lineOf c = if c < cfg.plicNumContexts then p.anyEligible cfg c else p.lineOf c :=
  cellGet_loop false (fun c => p.anyEligible cfg c) cfg.plicNumContexts p.irqOut c

/-- After `update()` every line is current. -/
theorem Plic.update_current (cfg : Config) (p : Plic) : (p.update cfg).LinesCurrent cfg := by
  intro c hc
  rw [Plic.update_lineOf, if_pos hc, Plic.anyEligible_iff]
  rfl

/-- On a state whose lines are current, `update()` leaves every context's line. -/
theorem Plic.lineOf_of_current {cfg : Config} {p : Plic} (h : p.LinesCurrent cfg) {c : Nat} (hc : c < cfg.plicNumContexts) :
    p.lineOf c = p.anyEligible cfg c := by
  rw [Bool.eq_iff_iff, h c hc, Plic.anyEligible_iff]

/-! ### Claim and pending bits -/

theorem Plic.setClaimed_claimedOf (p : Plic) (c k : Nat) (b : Bool) (c' : Nat) :
    (p.setClaimed c k b).claimedOf c' = if c' = c then putBit (p.claimedOf c) k b else p.claimedOf c' :=
  cellGet_set _ _ _ _ _

theorem Plic.setClaimed_bit (p : Plic) (c k : Nat) (b : Bool) (c' j : Nat) :
    ((p.setClaimed c k b).claimedOf c').getLsbD j =
      if c' = c ∧ j = k ∧ k < 1024 then b else (p.claimedOf c').getLsbD j := by
  rw [Plic.setClaimed_claimedOf]
  by_cases hc : c' = c
  · subst hc
    simp only [if_true, getLsbD_putBit, true_and]
  · simp [hc]

theorem Plic.setPending_bit (p : Plic) (k : Nat) (b : Bool) (j : Nat) :
    (p.setPending k b).pending.getLsbD j = if j = k ∧ k < 1024 then b else p.pending.getLsbD j :=
  getLsbD_putBit _ _ _ _

/-- Clearing source `k`'s claim in every context. -/
theorem Plic.clearClaims_bit (k n : Nat) (p : Plic) (c j : Nat) :
    ((loopTo (fun c q => Plic.setClaimed c k false q) n p).claimedOf c).getLsbD j =
      ((p.claimedOf c).getLsbD j && decide (¬(c < n ∧ j = k))) := by
  induction n with
  | zero => simp
  | succ n ih =>
    rw [loopTo_succ, Plic.setClaimed_bit, ih]
    by_cases hk : k < 1024
    · by_cases h : c = n ∧ j = k
      · obtain ⟨rfl, rfl⟩ := h
        simp [hk]
      · have e : (c = n ∧ j = k ∧ k < 1024) = False := by simp; omega
        have e2 : (c < n + 1 ∧ j = k) = (c < n ∧ j = k) := by
          apply propext; constructor <;> rintro ⟨h1, h2⟩ <;> refine ⟨?_, h2⟩ <;> omega
        simp only [e, if_false, e2]
    · have e : (c = n ∧ j = k ∧ k < 1024) = False := by simp; omega
      simp only [e, if_false]
      by_cases hj : j = k
      · have : (p.claimedOf c).getLsbD j = false := BitVec.getLsbD_of_ge _ _ (by omega)
        simp [this]
      · simp [hj]

theorem Plic.clearClaims_rest (k n : Nat) (p : Plic) :
    (loopTo (fun c q => Plic.setClaimed c k false q) n p).priority = p.priority ∧
    (loopTo (fun c q => Plic.setClaimed c k false q) n p).pending = p.pending ∧
    (loopTo (fun c q => Plic.setClaimed c k false q) n p).enabled = p.enabled ∧
    (loopTo (fun c q => Plic.setClaimed c k false q) n p).threshold = p.threshold ∧
    (loopTo (fun c q => Plic.setClaimed c k false q) n p).irqOut = p.irqOut :=
  loopTo_keeps (fun q : Plic => q.priority = p.priority ∧ q.pending = p.pending ∧ q.enabled = p.enabled ∧
    q.threshold = p.threshold ∧ q.irqOut = p.irqOut) _ n p ⟨rfl, rfl, rfl, rfl, rfl⟩ (fun _ _ h => h)

/-! ### `raise_irq` -/

theorem Plic.raise_true (cfg : Config) (p : Plic) (k : Nat) : p.raise cfg k true = (p.setPending k true).update cfg := rfl

theorem Plic.raise_false (cfg : Config) (p : Plic) (k : Nat) : p.raise cfg k false =
    (loopTo (fun c q => q.setClaimed c k false) cfg.plicNumContexts (p.setPending k false)).update cfg := rfl

theorem Plic.raise_current (cfg : Config) (p : Plic) (k : Nat) (l : Bool) : (p.raise cfg k l).LinesCurrent cfg := by
  cases l
  · exact Plic.update_current _ _
  · exact Plic.update_current _ _

theorem Plic.raise_rest (cfg : Config) (p : Plic) (k : Nat) (l : Bool) :
    (p.raise cfg k l).priority = p.priority ∧ (p.raise cfg k l).enabled = p.enabled ∧
    (p.raise cfg k l).threshold = p.threshold := by
  cases l
  · have h := Plic.clearClaims_rest k cfg.plicNumContexts (p.setPending k false)
    exact ⟨h.1, h.2.2.1, h.2.2.2.1⟩
  · exact ⟨rfl, rfl, rfl⟩

theorem Plic.raise_pending_bit (cfg : Config) (p : Plic) (k : Nat) (l : Bool) (j : Nat) :
    (p.raise cfg k l).pending.getLsbD j = if j = k ∧ k < 1024 then l else p.pending.getLsbD j := by
  cases l
  · rw [Plic.raise_false, Plic.update_pending, (Plic.clearClaims_rest _ _ _).2.1, Plic.setPending_bit]
  · exact Plic.setPending_bit _ _ _ _

theorem Plic.raise_claimed_bit (cfg : Config) (p : Plic) (k : Nat) (l : Bool) (c j : Nat) :
    ((p.raise cfg k l).claimedOf c).getLsbD j =
      ((p.claimedOf c).getLsbD j && decide (¬(l = false ∧ c < cfg.plicNumContexts ∧ j = k))) := by
  cases l
  · rw [Plic.raise_false, Plic.update_claimedOf, Plic.clearClaims_bit]
    simp only [true_and]; rfl
  · rw [Plic.raise_true, Plic.update_claimedOf]
    simp; rfl

/-! ### `claim` and `complete` -/

/-- `best` picks the eligible source of the highest priority and then of the lowest number, 0 for none. -/
theorem Plic.best_spec (cfg : Config) (p : Plic) (c n : Nat) :
    (p.best cfg c n = 0 ∧ ∀ k, 1 ≤ k → k ≤ n → p.eligible cfg c k = false) ∨
    (1 ≤ p.best cfg c n ∧ p.best cfg c n ≤ n ∧ p.eligible cfg c (p.best cfg c n) = true ∧
      ∀ j, 1 ≤ j → j ≤ n → p.eligible cfg c j = true →
        (p.prio j).toNat < (p.prio (p.best cfg c n)).toNat ∨ (p.prio j = p.prio (p.best cfg c n) ∧ p.best cfg c n ≤ j)) := by
  induction n with
  | zero => exact .inl ⟨rfl, fun k h1 h2 => by omega⟩
  | succ n ih =>
    unfold Plic.best
    by_cases he : p.eligible cfg c (n + 1) = true
    · rcases ih with ⟨h0, hn⟩ | ⟨h1, h2, h3, h4⟩
      · right
        simp only [he, h0]
        refine ⟨by simp, by simp, by simpa using he, ?_⟩
        intro j hj1 hj2 hj
        rcases Nat.lt_or_ge n j with hlt | hge
        · have : j = n + 1 := by omega
          subst this
          exact .inr ⟨rfl, Nat.le_refl _⟩
        · rw [hn j hj1 hge] at hj; cases hj
      · right
        have h0 : ¬ p.best cfg c n = 0 := by omega
        by_cases hlt : p.prio (p.best cfg c n) < p.prio (n + 1)
        · simp only [he, hlt]
          refine ⟨by simp, by simp, by simpa using he, ?_⟩
          have hlt' : (p.prio (p.best cfg c n)).toNat < (p.prio (n + 1)).toNat := hlt
          intro j hj1 hj2 hj
          simp only [decide_true, Bool.or_true, Bool.and_self, if_true]
          rcases Nat.lt_or_ge n j with hgt | hge
          · have : j = n + 1 := by omega
            subst this
            exact .inr ⟨rfl, Nat.le_refl _⟩
          · rcases h4 j hj1 hge hj with h | ⟨h, -⟩
            · exact .inl (by omega)
            · exact .inl (by rw [h]; exact hlt')
        · simp only [he, h0, hlt, decide_false, Bool.or_self, Bool.and_false]
          refine ⟨by simpa using h1, by simp; omega, by simpa using h3, ?_⟩
          intro j hj1 hj2 hj
          simp only [Bool.false_eq_true, if_false]
          have hlt' : ¬ (p.prio (p.best cfg c n)).toNat < (p.prio (n + 1)).toNat := hlt
          rcases Nat.lt_or_ge n j with hgt | hge
          · have : j = n + 1 := by omega
            subst this
            rcases Nat.lt_or_ge (p.prio (n + 1)).toNat (p.prio (p.best cfg c n)).toNat with h | h
            · exact .inl h
            · exact .inr ⟨BitVec.eq_of_toNat_eq (by omega), by omega⟩
          · exact h4 j hj1 hge hj
    · have he : p.eligible cfg c (n + 1) = false := by simpa using he
      simp only [he, Bool.false_and, Bool.false_eq_true, if_false]
      rcases ih with ⟨h0, hn⟩ | ⟨h1, h2, h3, h4⟩
      · left
        refine ⟨h0, fun k h1 h2 => ?_⟩
        rcases Nat.lt_or_ge n k with hlt | hge
        · have : k = n + 1 := by omega
          subst this; exact he
        · exact hn k h1 hge
      · right
        refine ⟨h1, by omega, h3, fun j hj1 hj2 hj => ?_⟩
        rcases Nat.lt_or_ge n j with hlt | hge
        · have : j = n + 1 := by omega
          subst this; rw [he] at hj; cases hj
        · exact h4 j hj1 hge hj

/-- A source `best` picks is one of the 1024 bits of the pending map. -/
theorem Plic.eligible_lt {cfg : Config} {p : Plic} {c k : Nat} (h : p.eligible cfg c k = true) : k < 1024 := by
  by_contra hk
  have : p.pending.getLsbD k = false := BitVec.getLsbD_of_ge _ _ (by omega)
  simp [Plic.eligible, this] at h

theorem Plic.claim_of_none {cfg : Config} {p : Plic} {c : Nat} (h : p.best cfg c cfg.plicNumSources = 0) : p.claim cfg c = p := by
  simp [Plic.claim, h]

theorem Plic.claim_of_some {cfg : Config} {p : Plic} {c k : Nat} (h : p.best cfg c cfg.plicNumSources = k) (hk : k ≠ 0) :
    p.claim cfg c = ((p.setClaimed c k true).setPending k false).update cfg := by
  simp [Plic.claim, h, hk]

theorem Plic.complete_of_claimed {cfg : Config} {p : Plic} {c k : Nat} (h1 : IsSource cfg k)
    (h2 : (p.claimedOf c).getLsbD k = true) : p.complete cfg c k = (p.setClaimed c k false).update cfg := by
  simp [Plic.complete, h1.1, h1.2, h2]

theorem Plic.complete_of_not {cfg : Config} {p : Plic} {c k : Nat} (h : ¬(IsSource cfg k ∧ (p.claimedOf c).getLsbD k = true)) :
    p.complete cfg c k = p := by
  unfold Plic.complete
  rw [if_neg]
  simpa [IsSource] using h

end Sys2Proof.Machine
end

