-- ==== Sys2Proof/Tests/Slice0.lean ====
section
/-! SUPPORT. The model's own tests: records written out from the spec's offset maps decode to the transactions they stand for,
ill-formed transactions are refused, single steps give what 95_test_vectors.md works out by hand (each theorem names its vector),
and every statement's hypotheses are met by a concrete state (`witness_<statement>`). -/

set_option Elab.async false

namespace Sys2Proof.Tests

open Sys2Proof Sys2Proof.Machine

/-! ### Helpers -/

/-- The outcome is a next state with the property. -/
def nextWith (r : Result) (p : State → Bool) : Bool :=
  match r with
  | .next t => p t
  | .fault _ => false
  | .refused _ => false

theorem exists_of_nextWith {r : Result} {p : State → Bool} (h : nextWith r p = true) : ∃ t, r = .next t ∧ p t = true := by
  cases r with
  | next t => exact ⟨t, rfl, h⟩
  | fault f => cases h
  | refused f => cases h

/-- The outcome is this refusal. -/
def refusedWith (r : Result) (e : Refusal) : Bool :=
  match r with
  | .next _ => false
  | .fault _ => false
  | .refused f => decide (f = e)

/-- The outcome is this fault. -/
def faultWith (r : Result) (e : Fault) : Bool :=
  match r with
  | .next _ => false
  | .fault f => decide (f = e)
  | .refused _ => false

theorem eq_of_faultWith {r : Result} {e : Fault} (h : faultWith r e = true) : r = .fault e := by
  cases r with
  | next t => cases h
  | fault f => exact congrArg _ (of_decide_eq_true h)
  | refused f => cases h

/-- The construction state with another configuration. -/
def built (c : Config) : State := State.initial { Launch.sample with cfg := c }

/-- What construction answers. -/
def constructionError (l : Launch) : Option Fault :=
  match State.construct l with
  | .ok _ => none
  | .error f => some f

/-- The machine after construction, with one transaction waiting. -/
def waiting (i : Instr) : State := { State.reset with requests := [encode i] }

/-- Sources 1 (priority 3) and 2 (priority 5) pending and enabled for context 0, threshold 1 (the start state of L1-2). -/
def twoSources : State := { State.reset with plic :=
  { priority := [(1, 3#32), (2, 5#32)], pending := 0x6#1024, enabled := [(0, 0x6#1024)], threshold := [(0, 1#32)]
    claimed := [], irqOut := [(0, true)] } }

/-- Source 3 (priority 2), enabled for contexts 0 and 1, claimed by context 0 (the state after L1-3a). -/
def claimedSource : State := { State.reset with plic :=
  { priority := [(3, 2#32)], pending := 0#1024, enabled := [(0, 0x8#1024), (1, 0x8#1024)], threshold := []
    claimed := [(0, 0x8#1024)], irqOut := [] } }

/-- The CLINT at a time, with a compare value for hart 0 whose line is low. -/
def timed (time cmp0 : DWord) : State := { State.reset with clint := { State.reset.clint with mtime := time, mtimecmp := [(0, cmp0)] } }

/-- An image whose bytes 0 to 5 are 1 to 6. -/
def smallImage : List Host.Cell := [(0, 1#8), (1, 2#8), (2, 3#8), (3, 4#8), (4, 5#8), (5, 6#8)]

/-- The SDHC ready for a data command: block size 512, `NISTEN` 0x0003, over `smallImage`. -/
def readyCard : State := { State.reset with sdhc :=
  { State.reset.sdhc with image := smallImage, blksize := 0x0200#16, nisten := 0x0003#16 } }

/-- A read transfer with `cursor` bytes drained. -/
def reading (cursor : Nat) : State := { readyCard with sdhc :=
  { readyCard.sdhc with
    buf := smallImage, cursor := cursor, xfer := .read, prsnt := 0x00090A00#32, nists := 0x0021#16 } }

/-- A write transfer at 0x200 with `cursor` bytes filled. -/
def writing (cursor : Nat) : State := { readyCard with sdhc :=
  { readyCard.sdhc with
    pos := 0x200#64, cursor := cursor, xfer := .write, prsnt := 0x00090500#32, nists := 0x0011#16 } }

/-- The UART with bytes waiting. -/
def receiving (bytes : List Byte) : State := { State.reset with uart := { State.reset.uart with rxq := bytes } }

/-- The UART with `LCR` set. -/
def lineControl (v : Byte) : State := { State.reset with uart := { State.reset.uart with lcr := v } }

/-! ### Decoding -/

/-- Eight bytes of a record field, from its low bytes. -/
def field (bytes : List Byte) : List Byte := bytes ++ List.replicate (8 - bytes.length) 0#8

/-- A record from its header and the low bytes of its fields (assumption log 3). -/
def record (head a b c : List Byte) : List Byte := head ++ field a ++ field b ++ field c

/-- Each record decodes to its transaction. -/
def decodesAs (t : List (List Byte × Instr)) : Bool :=
  t.all fun p => match decode p.1 with | .ok i => decide (i = p.2) | .error _ => false

/-- Records written out from the formats of 30_encoding.md R130, R133, with the transactions they stand for. -/
def busRecords : List (List Byte × Instr) := [
  (record [0, 0, 3, 0] [0x04, 0x00, 0x20, 0x0C] [] [], .busLoad 0x0C200004#64 4),
  (record [1, 0, 0, 0] [0x00, 0x00, 0x00, 0x10] [0x48] [], .busStore 0x10000000#64 1 0x48#64),
  (record [2, 0, 0, 2] [0x00, 0x00, 0x00, 0x10] [] [], .busAddDevice 0 0x10000000#64 .uart),
  (record [2, 0, 0, 4] [0x00, 0x00, 0x00, 0x30] [0x00, 0x10] [0x01], .busAddDevice 0 0x30000000#64 (.bus 1 0x1000)),
  (record [2, 1, 0, 0] [0x07, 0x00, 0x00, 0x10] [] [], .busFindDevice 0x10000007#64)]

/-- Records written out from the offsets of 30_encoding.md R134, with the transactions they stand for. -/
def plicRecords : List (List Byte × Instr) := [
  (record [0, 1, 3, 0] [0x0C] [] [], .plicPriorityLd 3),
  (record [1, 1, 3, 0] [0x08] [0x0D] [], .plicPrioritySt 2 0x0D#32),
  (record [0, 1, 3, 0] [0x04, 0x10] [] [], .plicPendingLd 1),
  (record [1, 1, 3, 0] [0x7C, 0x10] [0x01] [], .plicPendingSt 31 1#32),
  (record [0, 1, 3, 0] [0x88, 0x20] [] [], .plicEnableLd 1 2),
  (record [1, 1, 3, 0] [0xFC, 0x1F, 0x1F] [0xFF, 0xFF, 0xFF, 0xFF] [], .plicEnableSt 15871 31 0xFFFFFFFF#32),
  (record [0, 1, 3, 0] [0x00, 0x10, 0x20] [] [], .plicThresholdLd 1),
  (record [1, 1, 3, 0] [0x00, 0xF0, 0xFF, 0x03] [0x01] [], .plicThresholdSt 15871 1#32),
  (record [0, 1, 3, 0] [0x04, 0x00, 0x20] [] [], .plicClaimLd 0),
  (record [1, 1, 3, 0] [0x04, 0x10, 0x20] [0x0A] [], .plicCompleteSt 1 0x0A#32),
  (record [2, 2, 0, 0] [0x0A] [0x01] [], .plicRaiseIrq 10 true),
  (record [2, 3, 0, 0] [] [] [], .plicUpdate),
  (record [2, 4, 0, 0] [0x01] [] [], .plicIntCheck 1)]

/-- Records written out from the offsets of 30_encoding.md R136, with the transactions they stand for. -/
def clintRecords : List (List Byte × Instr) := [
  (record [0, 2, 3, 0] [0x04] [] [], .clintMsipLd 1),
  (record [1, 2, 3, 0] [0xF8, 0x3F] [0x03] [], .clintMsipSt 4094 3#32),
  (record [0, 2, 7, 0] [0x08, 0x40] [] [], .clintMtimecmpLd64 1),
  (record [0, 2, 3, 0] [0x00, 0x40] [] [], .clintMtimecmpLdLo 0),
  (record [0, 2, 3, 0] [0x0C, 0x40] [] [], .clintMtimecmpLdHi 1),
  (record [1, 2, 7, 0] [0xF0, 0xBF] [0x65] [], .clintMtimecmpSt64 4094 0x65#64),
  (record [1, 2, 3, 0] [0x08, 0x40] [0x10] [], .clintMtimecmpStLo 1 0x10#32),
  (record [1, 2, 3, 0] [0x04, 0x40] [0x02] [], .clintMtimecmpStHi 0 2#32),
  (record [0, 2, 7, 0] [0xF8, 0xBF] [] [], .clintMtimeLd64),
  (record [0, 2, 3, 0] [0xF8, 0xBF] [] [], .clintMtimeLdLo),
  (record [0, 2, 3, 0] [0xFC, 0xBF] [] [], .clintMtimeLdHi),
  (record [1, 2, 7, 0] [0xF8, 0xBF] [0x07] [], .clintMtimeSt64 7#64),
  (record [1, 2, 3, 0] [0xF8, 0xBF] [0x07] [], .clintMtimeStLo 7#32)]

/-- Records written out from the offsets of 30_encoding.md R136, with the transactions they stand for. -/
def clintRecords2 : List (List Byte × Instr) := [
  (record [1, 2, 3, 0] [0xFC, 0xBF] [0x01] [], .clintMtimeStHi 1#32),
  (record [2, 5, 0, 0] [0x04] [] [], .clintIncrement 4#64)]

/-- Records written out from the offsets of 30_encoding.md R145, whole registers, with the transactions they stand for. -/
def sdhcLoadRecords : List (List Byte × Instr) := [
  (record [0, 3, 3, 0] [] [] [], .sdhcSysaddrLd 0 4),
  (record [0, 3, 1, 0] [0x04] [] [], .sdhcBlksizeLd 0 2),
  (record [0, 3, 1, 0] [0x06] [] [], .sdhcBlkcntLd 0 2),
  (record [0, 3, 3, 0] [0x08] [] [], .sdhcArgLd 0 4),
  (record [0, 3, 1, 0] [0x0C] [] [], .sdhcXfermodeLd 0 2),
  (record [0, 3, 1, 0] [0x0E] [] [], .sdhcCmdLd 0 2),
  (record [0, 3, 7, 0] [0x10] [] [], .sdhcRespLd 0 8),
  (record [0, 3, 3, 0] [0x20] [] [], .sdhcBufdataLd),
  (record [0, 3, 3, 0] [0x24] [] [], .sdhcPrsntLd 0 4),
  (record [0, 3, 0, 0] [0x28] [] [], .sdhcHostctlLd 0 1),
  (record [0, 3, 0, 0] [0x29] [] [], .sdhcPwrctlLd 0 1),
  (record [0, 3, 1, 0] [0x2C] [] [], .sdhcClkctlLd 0 2),
  (record [0, 3, 0, 0] [0x2E] [] [], .sdhcToctlLd 0 1)]

/-- Records written out from the offsets of 30_encoding.md R145, whole registers, with the transactions they stand for. -/
def sdhcLoadRecords2 : List (List Byte × Instr) := [
  (record [0, 3, 0, 0] [0x2F] [] [], .sdhcSwrstLd 0 1),
  (record [0, 3, 1, 0] [0x30] [] [], .sdhcNistsLd 0 2),
  (record [0, 3, 1, 0] [0x32] [] [], .sdhcEistsLd 0 2),
  (record [0, 3, 1, 0] [0x34] [] [], .sdhcNistenLd 0 2),
  (record [0, 3, 1, 0] [0x36] [] [], .sdhcEistenLd 0 2),
  (record [0, 3, 1, 0] [0x38] [] [], .sdhcNisigenLd 0 2),
  (record [0, 3, 1, 0] [0x3A] [] [], .sdhcEisigenLd 0 2),
  (record [0, 3, 7, 0] [0x40] [] [], .sdhcCapsLd 0 8),
  (record [0, 3, 7, 0] [0x48] [] [], .sdhcMaxcurLd 0 8),
  (record [0, 3, 1, 0] [0xFE] [] [], .sdhcVersionLd 0 2)]

/-- Records written out from the offsets of 30_encoding.md R145, each register's last byte, with the transactions they stand for. -/
def sdhcStoreRecords : List (List Byte × Instr) := [
  (record [1, 3, 0, 0] [0x03] [0x80] [], .sdhcSysaddrSt 3 1 0x80#64),
  (record [1, 3, 0, 0] [0x05] [0x84] [], .sdhcBlksizeSt 1 1 0x84#64),
  (record [1, 3, 0, 0] [0x07] [0x86] [], .sdhcBlkcntSt 1 1 0x86#64),
  (record [1, 3, 0, 0] [0x0B] [0x88] [], .sdhcArgSt 3 1 0x88#64),
  (record [1, 3, 0, 0] [0x0D] [0x8C] [], .sdhcXfermodeSt 1 1 0x8C#64),
  (record [1, 3, 0, 0] [0x0F] [0x8E] [], .sdhcCmdSt 1 1 0x8E#64),
  (record [1, 3, 0, 0] [0x1F] [0x90] [], .sdhcRespSt 15 1 0x90#64),
  (record [1, 3, 3, 0] [0x20] [0x11, 0x22, 0x33, 0x44] [], .sdhcBufdataSt 0x44332211#32),
  (record [1, 3, 0, 0] [0x27] [0xA4] [], .sdhcPrsntSt 3 1 0xA4#64),
  (record [1, 3, 0, 0] [0x28] [0xA8] [], .sdhcHostctlSt 0 1 0xA8#64),
  (record [1, 3, 0, 0] [0x29] [0xA9] [], .sdhcPwrctlSt 0 1 0xA9#64),
  (record [1, 3, 0, 0] [0x2D] [0xAC] [], .sdhcClkctlSt 1 1 0xAC#64),
  (record [1, 3, 0, 0] [0x2E] [0xAE] [], .sdhcToctlSt 0 1 0xAE#64)]

/-- Records written out from the offsets of 30_encoding.md R145, each register's last byte, with the transactions they stand for. -/
def sdhcStoreRecords2 : List (List Byte × Instr) := [
  (record [1, 3, 0, 0] [0x2F] [0xAF] [], .sdhcSwrstSt 0 1 0xAF#64),
  (record [1, 3, 0, 0] [0x31] [0xB0] [], .sdhcNistsSt 1 1 0xB0#64),
  (record [1, 3, 0, 0] [0x33] [0xB2] [], .sdhcEistsSt 1 1 0xB2#64),
  (record [1, 3, 0, 0] [0x35] [0xB4] [], .sdhcNistenSt 1 1 0xB4#64),
  (record [1, 3, 0, 0] [0x37] [0xB6] [], .sdhcEistenSt 1 1 0xB6#64),
  (record [1, 3, 0, 0] [0x39] [0xB8] [], .sdhcNisigenSt 1 1 0xB8#64),
  (record [1, 3, 0, 0] [0x3B] [0xBA] [], .sdhcEisigenSt 1 1 0xBA#64),
  (record [1, 3, 0, 0] [0x47] [0x80] [], .sdhcCapsSt 7 1 0x80#64),
  (record [1, 3, 0, 0] [0x4F] [0x88] [], .sdhcMaxcurSt 7 1 0x88#64),
  (record [1, 3, 0, 0] [0xFF] [0xBE] [], .sdhcVersionSt 1 1 0xBE#64)]

/-- Records written out from the register numbers and `DLAB` of 30_encoding.md R140, with the transactions they stand for. -/
def uartRecords : List (List Byte × Instr) := [
  (record [0, 4, 0, 0] [] [] [], .uartRbrLd),
  (record [1, 4, 0, 0] [] [0xA0] [], .uartThrSt 0xA0#8),
  (record [0, 4, 0, 1] [] [] [], .uartDllLd),
  (record [1, 4, 0, 1] [] [0xA0] [], .uartDllSt 0xA0#8),
  (record [0, 4, 0, 0] [0x01] [] [], .uartIerLd),
  (record [1, 4, 0, 0] [0x01] [0xA1] [], .uartIerSt 0xA1#8),
  (record [0, 4, 0, 1] [0x01] [] [], .uartDlmLd),
  (record [1, 4, 0, 1] [0x01] [0xA1] [], .uartDlmSt 0xA1#8),
  (record [0, 4, 0, 0] [0x02] [] [], .uartIirLd),
  (record [1, 4, 0, 0] [0x02] [0xA2] [], .uartFcrSt 0xA2#8),
  (record [0, 4, 0, 0] [0x03] [] [], .uartLcrLd),
  (record [1, 4, 0, 0] [0x03] [0xA3] [], .uartLcrSt 0xA3#8),
  (record [0, 4, 0, 0] [0x04] [] [], .uartMcrLd)]

/-- Records written out from the register numbers and `DLAB` of 30_encoding.md R140, with the transactions they stand for. -/
def uartRecords2 : List (List Byte × Instr) := [
  (record [1, 4, 0, 0] [0x04] [0xA4] [], .uartMcrSt 0xA4#8),
  (record [0, 4, 0, 0] [0x05] [] [], .uartLsrLd),
  (record [1, 4, 0, 0] [0x05] [0xA5] [], .uartLsrSt 0xA5#8),
  (record [0, 4, 0, 1] [0x05] [] [], .uartPsdLd),
  (record [1, 4, 0, 1] [0x05] [0xA5] [], .uartPsdSt 0xA5#8),
  (record [0, 4, 0, 0] [0x06] [] [], .uartMsrLd),
  (record [1, 4, 0, 0] [0x06] [0xA6] [], .uartMsrSt 0xA6#8),
  (record [0, 4, 0, 0] [0x07] [] [], .uartScrLd),
  (record [1, 4, 0, 0] [0x07] [0xA7] [], .uartScrSt 0xA7#8),
  (record [2, 6, 0, 0] [] [] [], .uartPoll)]
theorem test_decode_busRecords : decodesAs busRecords = true := by decide +kernel
theorem test_decode_plicRecords : decodesAs plicRecords = true := by decide +kernel
theorem test_decode_clintRecords : decodesAs clintRecords = true := by decide +kernel
theorem test_decode_clintRecords2 : decodesAs clintRecords2 = true := by decide +kernel
theorem test_decode_sdhcLoadRecords : decodesAs sdhcLoadRecords = true := by decide +kernel
theorem test_decode_sdhcLoadRecords2 : decodesAs sdhcLoadRecords2 = true := by decide +kernel
theorem test_decode_sdhcStoreRecords : decodesAs sdhcStoreRecords = true := by decide +kernel
theorem test_decode_sdhcStoreRecords2 : decodesAs sdhcStoreRecords2 = true := by decide +kernel
theorem test_decode_uartRecords : decodesAs uartRecords = true := by decide +kernel
theorem test_decode_uartRecords2 : decodesAs uartRecords2 = true := by decide +kernel

theorem test_decode_host_input :
    decodesAs [(record [2, 7, 0, 0] [] [] [] ++ [0x41, 0x42], .uartHostInput [0x41#8, 0x42#8])] = true := by decide +kernel

/-- The decoder refuses by name: a short record, an unknown format, device or operation, an unused field that is not zero, a PLIC
hole (R135), an SDHC hole (R146), a misaligned PLIC access (R105). -/
theorem test_decode_refuses :
    decode [0, 1, 3] = .error .truncated ∧ decode (record [5, 0, 0, 0] [] [] []) = .error .badFormat ∧
    decode (record [0, 5, 0, 0] [] [] []) = .error .badSelector ∧ decode (record [2, 8, 0, 0] [] [] []) = .error .badSelector ∧
    decode (record [0, 1, 3, 0] [0x0C] [1] []) = .error .reservedField ∧
    decode (record [0, 1, 3, 0] [0x80, 0x10] [] []) = .error .noRow ∧
    decode (record [0, 3, 0, 0] [0x2A] [] []) = .error .noRow ∧ decode (record [0, 1, 3, 0] [0x02] [] []) = .error .noRow := by
  refine ⟨?_, ?_, ?_, ?_, ?_, ?_, ?_, ?_⟩ <;> rfl

/-! ### Well-formedness: an ill-formed term for each check -/

/-- A length of 0 or 257, a Bus number of 256, a nested Bus numbered no higher than its holder, a number or size past 64 bits. -/
def illFormedBus : List Instr :=
  [.busLoad 0#64 0, .busLoad 0#64 257, .busStore 0#64 0 0#64, .busStore 0#64 257 0#64, .busAddDevice 256 0#64 .plic,
    .busAddDevice 1 0#64 (.bus 1 8), .busAddDevice 0 0#64 (.bus (2 ^ 64) 8), .busAddDevice 0 0#64 (.bus 1 (2 ^ 64)),
    .busAddDevice 0 0#64 (.other (2 ^ 64) 8), .busAddDevice 0 0#64 (.other 1 (2 ^ 64))]

/-- Indexes past the offset map (30_encoding.md R134) or past 64 bits. -/
def illFormedPlic : List Instr :=
  [.plicPriorityLd 1024, .plicPrioritySt 1024 0#32, .plicPendingLd 32, .plicPendingSt 32 0#32, .plicEnableLd 15872 0,
    .plicEnableLd 0 32, .plicEnableSt 15872 0 0#32, .plicEnableSt 0 32 0#32, .plicThresholdLd 15872, .plicThresholdSt 15872 0#32,
    .plicClaimLd 15872, .plicCompleteSt 15872 0#32, .plicRaiseIrq (2 ^ 64) true, .plicIntCheck (2 ^ 64)]

/-- Harts past the offset map (30_encoding.md R136). -/
def illFormedClint : List Instr :=
  [.clintMsipLd 4095, .clintMsipSt 4095 0#32, .clintMtimecmpLd64 4095, .clintMtimecmpLdLo 4095, .clintMtimecmpLdHi 4095,
    .clintMtimecmpSt64 4095 0#64, .clintMtimecmpStLo 4095 0#32, .clintMtimecmpStHi 4095 0#32]

/-- SDHC loads whose first byte lies past their register (30_encoding.md R145). -/
def illFormedSdhcLoads : List Instr :=
  [.sdhcSysaddrLd 4 1, .sdhcBlksizeLd 2 1, .sdhcBlkcntLd 2 1, .sdhcArgLd 4 1, .sdhcXfermodeLd 2 1, .sdhcCmdLd 2 1, .sdhcRespLd 16 1, .sdhcPrsntLd 4 1, .sdhcHostctlLd 1 1, .sdhcPwrctlLd 1 1, .sdhcClkctlLd 2 1]

/-- SDHC loads whose first byte lies past their register (30_encoding.md R145). -/
def illFormedSdhcLoads2 : List Instr :=
  [.sdhcToctlLd 1 1, .sdhcSwrstLd 1 1, .sdhcNistsLd 2 1, .sdhcEistsLd 2 1, .sdhcNistenLd 2 1, .sdhcEistenLd 2 1, .sdhcNisigenLd 2 1, .sdhcEisigenLd 2 1, .sdhcCapsLd 8 1, .sdhcMaxcurLd 8 1, .sdhcVersionLd 2 1]

/-- SDHC loads of no admitted length (20_memory.md R104). -/
def illFormedSdhcLengths : List Instr :=
  [.sdhcSysaddrLd 0 5, .sdhcBlksizeLd 0 5, .sdhcBlkcntLd 0 5, .sdhcArgLd 0 5, .sdhcXfermodeLd 0 5, .sdhcCmdLd 0 5, .sdhcRespLd 0 5, .sdhcPrsntLd 0 5, .sdhcHostctlLd 0 5, .sdhcPwrctlLd 0 5, .sdhcClkctlLd 0 5]

/-- SDHC loads of no admitted length (20_memory.md R104). -/
def illFormedSdhcLengths2 : List Instr :=
  [.sdhcToctlLd 0 5, .sdhcSwrstLd 0 5, .sdhcNistsLd 0 5, .sdhcEistsLd 0 5, .sdhcNistenLd 0 5, .sdhcEistenLd 0 5, .sdhcNisigenLd 0 5, .sdhcEisigenLd 0 5, .sdhcCapsLd 0 5, .sdhcMaxcurLd 0 5, .sdhcVersionLd 0 5]

/-- SDHC stores whose first byte lies past their register. -/
def illFormedSdhcStores : List Instr :=
  [.sdhcSysaddrSt 4 1 0#64, .sdhcBlksizeSt 2 1 0#64, .sdhcBlkcntSt 2 1 0#64, .sdhcArgSt 4 1 0#64, .sdhcXfermodeSt 2 1 0#64, .sdhcCmdSt 2 1 0#64, .sdhcRespSt 16 1 0#64, .sdhcPrsntSt 4 1 0#64, .sdhcHostctlSt 1 1 0#64, .sdhcPwrctlSt 1 1 0#64, .sdhcClkctlSt 2 1 0#64]

/-- SDHC stores whose first byte lies past their register. -/
def illFormedSdhcStores2 : List Instr :=
  [.sdhcToctlSt 1 1 0#64, .sdhcSwrstSt 1 1 0#64, .sdhcNistsSt 2 1 0#64, .sdhcEistsSt 2 1 0#64, .sdhcNistenSt 2 1 0#64, .sdhcEistenSt 2 1 0#64, .sdhcNisigenSt 2 1 0#64, .sdhcEisigenSt 2 1 0#64, .sdhcCapsSt 8 1 0#64, .sdhcMaxcurSt 8 1 0#64, .sdhcVersionSt 2 1 0#64]

/-- SDHC stores of no admitted length. -/
def illFormedSdhcStoreLengths : List Instr :=
  [.sdhcSysaddrSt 0 3 0#64, .sdhcBlksizeSt 0 3 0#64, .sdhcBlkcntSt 0 3 0#64, .sdhcArgSt 0 3 0#64, .sdhcXfermodeSt 0 3 0#64, .sdhcCmdSt 0 3 0#64, .sdhcRespSt 0 3 0#64, .sdhcPrsntSt 0 3 0#64, .sdhcHostctlSt 0 3 0#64, .sdhcPwrctlSt 0 3 0#64, .sdhcClkctlSt 0 3 0#64]

/-- SDHC stores of no admitted length. -/
def illFormedSdhcStoreLengths2 : List Instr :=
  [.sdhcToctlSt 0 3 0#64, .sdhcSwrstSt 0 3 0#64, .sdhcNistsSt 0 3 0#64, .sdhcEistsSt 0 3 0#64, .sdhcNistenSt 0 3 0#64, .sdhcEistenSt 0 3 0#64, .sdhcNisigenSt 0 3 0#64, .sdhcEisigenSt 0 3 0#64, .sdhcCapsSt 0 3 0#64, .sdhcMaxcurSt 0 3 0#64, .sdhcVersionSt 0 3 0#64]
/-- The check refuses every one. -/
def noneWf (l : List Instr) : Bool := l.all fun i => !i.wf

theorem test_illFormed_bus : noneWf illFormedBus = true := by decide +kernel
theorem test_illFormed_plic : noneWf illFormedPlic = true := by decide +kernel
theorem test_illFormed_clint : noneWf illFormedClint = true := by decide +kernel

theorem test_illFormedSdhcLoads : noneWf illFormedSdhcLoads = true := by decide +kernel
theorem test_illFormedSdhcLoads2 : noneWf illFormedSdhcLoads2 = true := by decide +kernel
theorem test_illFormedSdhcLengths : noneWf illFormedSdhcLengths = true := by decide +kernel
theorem test_illFormedSdhcLengths2 : noneWf illFormedSdhcLengths2 = true := by decide +kernel
theorem test_illFormedSdhcStores : noneWf illFormedSdhcStores = true := by decide +kernel
theorem test_illFormedSdhcStores2 : noneWf illFormedSdhcStores2 = true := by decide +kernel
theorem test_illFormedSdhcStoreLengths : noneWf illFormedSdhcStoreLengths = true := by decide +kernel
theorem test_illFormedSdhcStoreLengths2 : noneWf illFormedSdhcStoreLengths2 = true := by decide +kernel

/-! ### Single steps, from 95_test_vectors.md -/

/-- L1-1a, L1-1c. -/
theorem test_find_device :
    nextWith (exec (.busFindDevice 0x0C200004#64) State.reset) (fun t => t.resp = .found (some (.plic, 0x200004))) = true ∧
    nextWith (exec (.busFindDevice 0x10000008#64) State.reset) (fun t => t.resp = .found none) = true := by decide +kernel

/-- L1-1e, BUS-9. -/
theorem test_add_device_errors :
    faultWith (exec (.busAddDevice 0 0x0C001000#64 (.other 1 0x1000)) State.reset) .constructionOverlap = true ∧
    faultWith (exec (.busAddDevice 0 0x20000000#64 (.other 1 0)) State.reset) .constructionBadRange = true := by decide +kernel

/-- L1-1f: a range that touches another is accepted. -/
theorem test_add_device_touching :
    nextWith (exec (.busAddDevice 0 0x10000008#64 (.other 1 8)) State.reset)
      (fun t => decide (t.devmap 0 = (State.reset.devmap 0).take 3 ++ [⟨0x10000008#64, .other 1 8, 8⟩] ++
        (State.reset.devmap 0).drop 3)) = true := by decide +kernel

/-- BUS-1, BUS-3, BUS-5, BUS-7. -/
theorem test_bus_unmapped :
    nextWith (exec (.busLoad 0x10#64 4) State.reset) (fun t => t.resp = .failed) = true ∧
    nextWith (exec (.busStore 0x0BFFFFFE#64 4 0#64) State.reset) (fun t => t.resp = .failed) = true ∧
    nextWith (exec (.busLoad 0x0FFFFFFC#64 8) State.reset) (fun t => t.resp = .failed) = true ∧
    nextWith (exec (.busLoad 0xFFFFFFFFFFFFFFFE#64 4) State.reset) (fun t => t.resp = .failed) = true := by decide +kernel

/-- BUS-4, BUS-6, BUS-8, EX-1, EX-3. -/
theorem test_bus_outcome_order :
    nextWith (exec (.busLoad 0x0FFFFFFC#64 4) State.reset) (fun t => t.resp = .loaded 4 0#64) = true ∧
    refusedWith (exec (.busLoad 0x10000000#64 3) State.reset) .badLength = true ∧
    refusedWith (exec (.busLoad 0x10000006#64 2) State.reset) .implDefinedWidth = true ∧
    refusedWith (exec (.busLoad 0x10#64 3) State.reset) .badLength = true ∧
    refusedWith (exec (.busLoad 0x0C200008#64 2) State.reset) .implDefinedWidth = true := by decide +kernel

/-- EX-6, EX-7: an atomic access and a fetch aimed at a device. -/
theorem test_atomic_and_fetch_refused :
    refusedWith (step { State.reset with requests := [record [3, 0, 3, 0] [0x04, 0, 0, 0x0C] [] []] }) .noAtomicMmio = true ∧
    refusedWith (step { State.reset with requests := [record [4, 0, 3, 0] [0, 0, 0, 0x10] [] []] }) .fetchFromDevice = true := by
  decide +kernel

/-- PL-1, PL-2. -/
theorem test_priority_store :
    nextWith (exec (.plicPrioritySt 2 0xD#32) State.reset) (fun t => t.plic.prio 2 = 5#32) = true ∧
    nextWith (exec (.plicPrioritySt 0 7#32) State.reset) (fun t => decide (t.plic = State.reset.plic)) = true := by decide +kernel

/-- PL-3. -/
theorem test_priority_hole :
    nextWith (exec (.plicPriorityLd 32) State.reset) (fun t => t.resp = .loaded 4 0#64) = true ∧
    nextWith (exec (.plicPriorityLd 32) (built { Config.sample with holePlic := .fail })) (fun t => t.resp = .failed) = true := by
  decide +kernel

/-- PL-4 (sources 2 and 5), PL-5, PL-6. -/
theorem test_pending_word :
    nextWith (exec (.plicPendingLd 0) { State.reset with plic := { State.reset.plic with pending := 0x24#1024 } })
      (fun t => t.resp = .loaded 4 0x24#64) = true ∧
    nextWith (exec (.plicPendingSt 0 0#32) { State.reset with plic := { State.reset.plic with pending := 0x24#1024 } })
      (fun t => t.plic.pending = 0x24#1024) = true ∧
    nextWith (exec (.plicPendingLd 1) State.reset) (fun t => t.resp = .loaded 4 0#64) = true := by decide +kernel

/-- PL-7, and the load of what it stores. -/
theorem test_enable_word :
    nextWith (exec (.plicEnableSt 0 0 0xFFFFFFFF#32) State.reset) (fun t => t.plic.enabledOf 0 = 0xFFFFFFFE#1024) = true ∧
    nextWith (exec (.plicEnableLd 0 0) twoSources) (fun t => t.resp = .loaded 4 0x6#64) = true := by decide +kernel

/-- PA-8: disabling a claimed source keeps the claim. -/
theorem test_enable_keeps_claim :
    nextWith (exec (.plicEnableSt 0 0 0#32) claimedSource)
      (fun t => t.plic.enabledOf 0 = 0#1024 && t.plic.claimedOf 0 = 0x8#1024) = true := by decide +kernel

/-- PL-9, PL-11 on L1-2's sources: a threshold of 5 masks priority 5, and `0xF` stores 7. -/
theorem test_threshold :
    nextWith (exec (.plicThresholdSt 0 5#32) twoSources) (fun t => !t.plic.lineOf 0) = true ∧
    nextWith (exec (.plicThresholdSt 0 4#32) twoSources) (fun t => t.plic.lineOf 0) = true ∧
    nextWith (exec (.plicThresholdSt 0 0xF#32) twoSources) (fun t => t.plic.thresh 0 = 7#32) = true ∧
    nextWith (exec (.plicThresholdLd 0) twoSources) (fun t => t.resp = .loaded 4 1#64) = true := by decide +kernel

/-- L1-2a, first load. -/
theorem test_claim_takes_highest :
    nextWith (exec (.plicClaimLd 0) twoSources)
      (fun t => t.resp = .loaded 4 2#64 && t.plic.pending = 0x2#1024 && t.plic.claimedOf 0 = 0x4#1024) = true := by decide +kernel

/-- PA-3: equal priorities, the lowest number. -/
theorem test_claim_tie :
    nextWith (exec (.plicClaimLd 0) { State.reset with plic := { State.reset.plic with
      priority := [(3, 4#32), (7, 4#32)], pending := 0x88#1024, enabled := [(0, 0x88#1024)] } })
      (fun t => t.resp = .loaded 4 3#64) = true := by decide +kernel

/-- L1-3c, L1-3d, L1-9b, PA-5. -/
theorem test_complete :
    nextWith (exec (.plicCompleteSt 1 3#32) claimedSource) (fun t => decide (t.plic = claimedSource.plic)) = true ∧
    nextWith (exec (.plicCompleteSt 0 3#32) claimedSource) (fun t => t.plic.claimedOf 0 = 0#1024) = true ∧
    nextWith (exec (.plicCompleteSt 0 0x20#32) claimedSource) (fun t => decide (t.plic = claimedSource.plic)) = true := by
  decide +kernel

/-- L1-3b: a raise while claimed is pending and not signalled. L1-4a: lowering withdraws the claim. -/
theorem test_raise_irq :
    nextWith (exec (.plicRaiseIrq 3 true) claimedSource) (fun t => t.plic.pending = 0x8#1024 && !t.plic.lineOf 0) = true ∧
    nextWith (exec (.plicRaiseIrq 3 false) claimedSource) (fun t => t.plic.claimedOf 0 = 0#1024 && t.plic.pending = 0#1024) = true := by
  decide +kernel

/-- PA-9, PA-10. -/
theorem test_bad_source_and_context :
    refusedWith (exec (.plicRaiseIrq 0 true) State.reset) .badSource = true ∧
    refusedWith (exec (.plicRaiseIrq 32 true) State.reset) .badSource = true ∧
    refusedWith (exec (.plicIntCheck 2) State.reset) .badContext = true := by decide +kernel

/-- PA-1's `int_check`, and `update` from stale lines (R191). -/
theorem test_int_check_and_update :
    nextWith (exec (.plicIntCheck 0) twoSources) (fun t => t.resp = .level true) = true ∧
    nextWith (exec .plicUpdate { twoSources with plic := { twoSources.plic with irqOut := [(1, true)] } })
      (fun t => t.plic.lineOf 0 && !t.plic.lineOf 1) = true := by decide +kernel

/-- CL-11, CL-12. -/
theorem test_msip :
    nextWith (exec (.clintMsipSt 1 3#32) State.reset) (fun t => t.clint.msipOf 1 && t.clint.msipOutOf 1 && !t.clint.msipOf 0) = true ∧
    nextWith (exec (.clintMsipSt 1 2#32) State.reset) (fun t => !t.clint.msipOf 1) = true ∧
    nextWith (exec (.clintMsipLd 0) { State.reset with clint := { State.reset.clint with msip := [(0, true)] } })
      (fun t => t.resp = .loaded 4 1#64) = true := by decide +kernel

/-- L1-5a's store, CL-17. -/
theorem test_mtimecmp_store64 :
    nextWith (exec (.clintMtimecmpSt64 1 0x65#64) (timed 0x64#64 0xFFFFFFFFFFFFFFFF#64)) (fun t => !t.clint.mtipOutOf 1) = true ∧
    nextWith (exec (.clintMtimecmpSt64 0 0x10#64) (timed 0x20#64 0x100#64)) (fun t => t.clint.mtipOutOf 0) = true := by decide +kernel

/-- CL-4, CL-5. -/
theorem test_mtimecmp_halves :
    nextWith (exec (.clintMtimecmpStLo 0 0x10#32) (timed 0#64 0x0000000100000000#64))
      (fun t => t.clint.cmp t.cfg 0 = 0x0000000100000010#64) = true ∧
    nextWith (exec (.clintMtimecmpStHi 0 2#32) (timed 0#64 0x0000000100000010#64))
      (fun t => t.clint.cmp t.cfg 0 = 0x0000000200000010#64) = true ∧
    nextWith (exec (.clintMtimecmpLdHi 0) (timed 0#64 0x0000000200000010#64)) (fun t => t.resp = .loaded 4 2#64) = true ∧
    nextWith (exec (.clintMtimecmpLdLo 0) (timed 0#64 0x0000000200000010#64)) (fun t => t.resp = .loaded 4 0x10#64) = true := by
  decide +kernel

/-- CL-6. -/
theorem test_mtime_loads :
    nextWith (exec .clintMtimeLdLo (timed 0x0000000100000002#64 0#64)) (fun t => t.resp = .loaded 4 2#64) = true ∧
    nextWith (exec .clintMtimeLdHi (timed 0x0000000100000002#64 0#64)) (fun t => t.resp = .loaded 4 1#64) = true ∧
    nextWith (exec .clintMtimeLd64 (timed 0x0000000100000002#64 0#64)) (fun t => t.resp = .loaded 8 0x0000000100000002#64) = true := by
  decide +kernel

/-- CL-9, CL-10. -/
theorem test_mtime_stores :
    nextWith (exec (.clintMtimeSt64 0#64) (timed 7#64 0#64)) (fun t => t.clint.mtime = 7#64) = true ∧
    nextWith (exec (.clintMtimeStHi 1#32) { timed 7#64 0#64 with cfg := { Config.sample with clintMtimeWritable := true } })
      (fun t => t.clint.mtime = 0x0000000100000007#64) = true := by decide +kernel

/-- CL-2, CL-7. -/
theorem test_increment :
    nextWith (exec (.clintIncrement 1#64) (timed 9#64 10#64)) (fun t => t.clint.mtime = 10#64 && t.clint.mtipOutOf 0) = true ∧
    nextWith (exec (.clintIncrement 1#64) (timed 0xFFFFFFFFFFFFFFFF#64 0xFFFFFFFFFFFFFFFF#64))
      (fun t => t.clint.mtime = 0#64 && !t.clint.mtipOutOf 0) = true := by decide +kernel

/-- CL-13, CL-13b, CL-14. -/
theorem test_clint_holes_and_shapes :
    nextWith (exec (.busLoad 0x02004010#64 8) State.reset) (fun t => t.resp = .loaded 8 0#64) = true ∧
    nextWith (exec (.busLoad 0x0200C000#64 4) State.reset) (fun t => t.resp = .loaded 4 0#64) = true ∧
    refusedWith (exec (.busLoad 0x0200000C#64 8) State.reset) .implDefinedWidth = true ∧
    refusedWith (exec (.busLoad 0x02000000#64 8) State.reset) .implDefinedWidth = true := by decide +kernel

/-- SD-1: the registers after construction. -/
theorem test_sdhc_reset_loads :
    nextWith (exec (.sdhcPrsntLd 0 4) State.reset) (fun t => t.resp = .loaded 4 0x00090000#64) = true ∧
    nextWith (exec (.sdhcCapsLd 0 8) State.reset) (fun t => t.resp = .loaded 8 0x0000000001A00000#64) = true ∧
    nextWith (exec (.sdhcVersionLd 0 2) State.reset) (fun t => t.resp = .loaded 2 0x0002#64) = true := by decide +kernel

/-- SD-2, SD-4. -/
theorem test_sdhc_write_rules :
    nextWith (exec (.sdhcPrsntSt 0 4 0xFFFFFFFF#64) State.reset) (fun t => t.sdhc.prsnt = 0x00090000#32) = true ∧
    nextWith (exec (.sdhcXfermodeSt 0 2 0x0023#64) State.reset) (fun t => t.sdhc.xfermode = 0x0022#16) = true := by decide +kernel

/-- SD-5: a load over two registers. SD-23: over registers and hole bytes. -/
theorem test_sdhc_wide_loads :
    nextWith (exec (.sdhcXfermodeLd 0 4) { State.reset with sdhc :=
      { State.reset.sdhc with xfermode := 0x0022#16, cmd := 0x003A#16 } }) (fun t => t.resp = .loaded 4 0x003A0022#64) = true ∧
    nextWith (exec (.sdhcHostctlLd 0 4) { State.reset with sdhc := { State.reset.sdhc with hostctl := 0x11#8, pwrctl := 0x22#8 } })
      (fun t => t.resp = .loaded 4 0x00002211#64) = true := by decide +kernel

/-- SD-6: the low command byte issues nothing. SD-7: an unrecognised index completes and is counted. -/
theorem test_command_other :
    nextWith (exec (.sdhcCmdSt 0 1 0x3A#64) readyCard)
      (fun t => t.sdhc.nists = 0#16 && t.sdhc.cmd = 0x003A#16 && t.counters.malformedCommand == 0) = true ∧
    nextWith (exec (.sdhcCmdSt 0 2 0x0C00#64) readyCard)
      (fun t => t.sdhc.nists = 0x0001#16 && t.counters.malformedCommand == 1 && t.sdhc.prsnt = 0x00090000#32) = true := by
  decide +kernel

/-- L1-6 step 5: issue(17). -/
theorem test_command_read :
    nextWith (exec (.sdhcCmdSt 0 2 0x1122#64) readyCard)
      (fun t => t.sdhc.prsnt = 0x00090A00#32 && t.sdhc.nists = 0x0021#16 && decide (t.sdhc.xfer = .read) &&
        decide (t.sdhc.buf = smallImage)) = true := by decide +kernel

/-- SD-18's issue(24), SD-14's command past the end. -/
theorem test_command_write_and_capacity :
    nextWith (exec (.sdhcCmdSt 0 2 0x183A#64) readyCard)
      (fun t => t.sdhc.prsnt = 0x00090500#32 && t.sdhc.nists = 0x0011#16 && decide (t.sdhc.xfer = .write)) = true ∧
    nextWith (exec (.sdhcCmdSt 0 2 0x113A#64) { readyCard with sdhc := { readyCard.sdhc with arg := 0x000FFF00#32 } })
      (fun t => t.sdhc.prsnt = 0x00090000#32 && t.sdhc.nists = 0x0001#16 && t.counters.capacityExceeded == 1) = true := by
  decide +kernel

/-- SD-20, SD-21. -/
theorem test_command_refused :
    refusedWith (exec (.sdhcCmdSt 0 2 0x113A#64) { readyCard with sdhc := { readyCard.sdhc with blksize := 0x0100#16 } })
      .unsupportedBlockSize = true ∧
    refusedWith (exec (.sdhcCmdSt 0 2 0x113A#64) (reading 0)) .commandDuringTransfer = true := by decide +kernel

/-- R276's packing, at the first word. SD-9: not ready. -/
theorem test_bufdata_load :
    nextWith (exec .sdhcBufdataLd (reading 0)) (fun t => t.resp = .loaded 4 0x04030201#64 && t.sdhc.cursor == 4) = true ∧
    nextWith (exec .sdhcBufdataLd State.reset) (fun t => t.resp = .loaded 4 0#64 && t.counters.deviceNotReady == 1) = true := by
  decide +kernel

/-- L1-6 step 7: the last load of a single block. -/
theorem test_bufdata_load_last :
    nextWith (exec .sdhcBufdataLd (reading 508))
      (fun t => t.sdhc.prsnt = 0x00090000#32 && t.sdhc.nists = 0x0003#16 && t.sdhc.cursor == 0 && decide (t.sdhc.xfer = .none)) =
      true := by decide +kernel

/-- L1-7 step 4: the first block end of two. -/
theorem test_bufdata_load_next_block :
    nextWith (exec .sdhcBufdataLd { reading 508 with sdhc := { (reading 508).sdhc with xfermode := 0x0032#16, blkcnt := 2#16 } })
      (fun t => t.sdhc.prsnt = 0x00090A00#32 && t.sdhc.nists = 0x0021#16 && t.sdhc.blkcnt = 1#16 && t.sdhc.pos = 0x200#64) = true := by
  decide +kernel

/-- SD-16: `BLKCNT` wraps. SD-15: the next block would pass the end. -/
theorem test_block_end_corners :
    nextWith (exec .sdhcBufdataLd { reading 508 with sdhc := { (reading 508).sdhc with xfermode := 0x0032#16 } })
      (fun t => t.sdhc.blkcnt = 0xFFFF#16 && decide (t.sdhc.xfer = .read)) = true ∧
    nextWith (exec .sdhcBufdataLd { reading 508 with sdhc :=
      { (reading 508).sdhc with xfermode := 0x0030#16, pos := 0x000FFE00#64 } })
      (fun t => t.sdhc.prsnt = 0x00090000#32 && t.sdhc.nists = 0x0001#16 && t.counters.capacityExceeded == 1) = true := by
  decide +kernel

/-- SD-18: the packing of a store (R277) and the write-back of the last word. -/
theorem test_bufdata_store :
    nextWith (exec (.sdhcBufdataSt 0x44332211#32) (writing 0))
      (fun t => decide (t.sdhc.buf = [(0, 0x11#8), (1, 0x22#8), (2, 0x33#8), (3, 0x44#8)]) && t.sdhc.cursor == 4) = true ∧
    nextWith (exec (.sdhcBufdataSt 0x44332211#32) (writing 508))
      (fun t => readByte t.sdhc.image 0x3FC = 0x11#8 && readByte t.sdhc.image 0x3FF = 0x44#8 && readByte t.sdhc.image 0x400 = 0#8 &&
        t.sdhc.prsnt = 0x00090000#32 && t.sdhc.nists = 0x0003#16) = true := by decide +kernel

/-- L1-8a, SD-22, L1-8b. -/
theorem test_software_reset :
    nextWith (exec (.sdhcSwrstSt 0 1 0x04#64) (reading 8))
      (fun t => t.sdhc.prsnt = 0x00090000#32 && t.sdhc.nists = 0x0001#16 && t.sdhc.cursor == 0 && t.sdhc.swrst = 0#8) = true ∧
    nextWith (exec (.sdhcSwrstSt 0 1 0x06#64) (reading 8)) (fun t => t.sdhc.nists = 0#16) = true ∧
    nextWith (exec (.sdhcSwrstSt 0 1 0x01#64) (reading 8))
      (fun t => t.sdhc.blksize = 0#16 && t.sdhc.nists = 0#16 && t.sdhc.prsnt = 0x00090000#32 && decide (t.sdhc.image = smallImage)) =
      true := by decide +kernel

/-- SD-12, SD-13 (on `NISTS` = 0x0003). -/
theorem test_status_store :
    nextWith (exec (.sdhcNistsSt 0 2 0x0001#64) { State.reset with sdhc := { State.reset.sdhc with nists := 0x0003#16 } })
      (fun t => t.sdhc.nists = 0x0002#16) = true ∧
    nextWith (exec (.sdhcNistsSt 0 2 0x8000#64) { State.reset with sdhc := { State.reset.sdhc with nists := 0x0003#16 } })
      (fun t => t.sdhc.nists = 0x0003#16) = true := by decide +kernel

/-- SD-26's last load: the line rises through the PLIC. SD-27: clearing the status lowers it. -/
theorem test_sdhc_line :
    nextWith (exec .sdhcBufdataLd { reading 508 with sdhc := { (reading 508).sdhc with nisigen := 0x0002#16 } })
      (fun t => t.sdhc.line && t.plic.pending = 0x800#1024) = true ∧
    nextWith (exec (.sdhcNistsSt 0 2 0x0002#64) { State.reset with
      sdhc := { State.reset.sdhc with nists := 0x0002#16, nisigen := 0x0002#16, line := true }
      plic := { State.reset.plic with pending := 0x800#1024 } })
      (fun t => !t.sdhc.line && t.plic.pending = 0#1024) = true := by decide +kernel

/-- SD-11, SD-24, SD-25. -/
theorem test_sdhc_gate :
    refusedWith (exec (.busLoad 0x1001001C#64 8) State.reset) .implDefinedWidth = true ∧
    nextWith (exec (.sdhcHostctlSt 0 4 0x11223344#64) (built { Config.sample with holeSdhc := .fail }))
      (fun t => t.resp = .failed && t.sdhc.hostctl = 0#8) = true ∧
    nextWith (exec (.busLoad 0x10010020#64 2) (built { Config.sample with sdhcMounted := false }))
      (fun t => t.resp = .failed) = true := by decide +kernel

/-- UA-1, UA-2. -/
theorem test_rbr_and_lsr :
    nextWith (exec .uartLsrLd State.reset) (fun t => t.resp = .loaded 1 0x60#64) = true ∧
    nextWith (exec .uartLsrLd (receiving [0x41#8])) (fun t => t.resp = .loaded 1 0x61#64) = true ∧
    nextWith (exec .uartRbrLd (receiving [0x41#8])) (fun t => t.resp = .loaded 1 0x41#64 && decide (t.uart.rxq = [])) = true := by
  decide +kernel

/-- UA-4, and UA-5's store under `DLAB`. -/
theorem test_thr_and_dll :
    nextWith (exec (.uartThrSt 0x48#8) State.reset) (fun t => decide (t.uart.txlog = [0x48#8])) = true ∧
    nextWith (exec (.uartDllSt 0x0C#8) (lineControl 0x80#8)) (fun t => t.uart.dll = 0x0C#8 && decide (t.uart.txlog = [])) = true := by
  decide +kernel

/-- UA-7's IIR, UA-9. -/
theorem test_iir :
    nextWith (exec .uartIirLd { State.reset with uart := { State.reset.uart with rxq := [1#8], ier := 1#8, fcr := 1#8 } })
      (fun t => t.resp = .loaded 1 0xC4#64) = true ∧
    nextWith (exec .uartIirLd State.reset) (fun t => t.resp = .loaded 1 0x01#64) = true := by decide +kernel

/-- UA-10, UA-16: the receive interrupt. -/
theorem test_ier :
    nextWith (exec (.uartIerSt 0xFF#8) State.reset) (fun t => t.uart.ier = 0x0F#8) = true ∧
    nextWith (exec (.uartIerSt 0x01#8) { receiving [0x41#8] with plic :=
      { State.reset.plic with priority := [(10, 1#32)], enabled := [(0, 0x400#1024)] } })
      (fun t => t.plic.lineOf 0 && t.uart.line) = true := by decide +kernel

/-- UA-7's FCR, UA-11, UA-12, UA-13. -/
theorem test_uart_stores :
    nextWith (exec (.uartFcrSt 0x07#8) (receiving [1#8])) (fun t => t.uart.fcr = 1#8 && decide (t.uart.rxq = [1#8])) = true ∧
    nextWith (exec .uartMsrLd State.reset) (fun t => t.resp = .loaded 1 0xB0#64) = true ∧
    nextWith (exec (.uartScrSt 0x5A#8) State.reset) (fun t => t.uart.scr = 0x5A#8) = true ∧
    nextWith (exec (.uartLsrSt 0xFF#8) State.reset) (fun t => decide (t.uart = State.reset.uart)) = true := by decide +kernel

/-- UA-14, UA-15. -/
theorem test_uart_access :
    refusedWith (exec (.busLoad 0x10000000#64 2) State.reset) .implDefinedWidth = true ∧
    nextWith (exec (.busLoad 0x10000008#64 1) State.reset) (fun t => t.resp = .failed) = true ∧
    nextWith (exec (.busLoad 0x10000014#64 1) (built { Config.sample with uartRegShift := 2, uartSize := 0x20 }))
      (fun t => t.resp = .loaded 1 0x60#64) = true ∧
    nextWith (exec (.busLoad 0x10000001#64 1) (built { Config.sample with uartRegShift := 2, uartSize := 0x20 }))
      (fun t => t.resp = .loaded 1 0#64) = true := by decide +kernel

/-- UA-20: input alone raises nothing, the poll does. -/
theorem test_host_input_and_poll :
    nextWith (exec (.uartHostInput [0x41#8]) { State.reset with uart := { State.reset.uart with ier := 1#8 } })
      (fun t => decide (t.uart.rxq = [0x41#8]) && t.plic.pending = 0#1024) = true ∧
    nextWith (exec .uartPoll { State.reset with uart := { State.reset.uart with ier := 1#8, rxq := [0x41#8] } })
      (fun t => t.plic.pending = 0x400#1024) = true := by decide +kernel

/-- CL-1: `MTIP_out` at construction. -/
theorem test_construction_timer :
    (State.reset.clint.mtipOutOf 0 || State.reset.clint.mtipOutOf 1) = false ∧
    ((built { Config.sample with clintMtimecmpInit := 0#64 }).clint.mtipOutOf 0 &&
      (built { Config.sample with clintMtimecmpInit := 0#64 }).clint.mtipOutOf 1) = true := by decide +kernel

/-! ### A state for the hypotheses of every statement

For a statement about a next state the witness also shows that the step or the transaction completes. -/

theorem witness_DecodeOfEncodeIsTheTransaction :
    (Instr.plicEnableSt 15871 31 1#32).wf = true ∧ (Instr.busAddDevice 255 0#64 (.bus (2 ^ 64 - 1) 0)).wf = true := by decide +kernel

theorem witness_DecodedRecordsAreEncodings : decode (record [0, 1, 3, 0] [0x04, 0x10, 0x20] [] []) = .ok (.plicClaimLd 1) := rfl

theorem witness_StepRunsTheOldestTransaction :
    ((Instr.plicClaimLd 1).wf = true ∧ (waiting (.plicClaimLd 1)).requests = encode (.plicClaimLd 1) :: []) ∧
    decodeTableWord 56 0x20100400030100 = some (.plicClaimLd 1) ∧ State.reset.requests = [] := by
  refine ⟨⟨by decide, rfl⟩, by decide +kernel, rfl⟩

/-- Context 0 holds a claim, and a claim by context 1 is waiting. -/
theorem witness_PlicInvariantsAreKept :
    (∃ t, step { claimedSource with requests := [encode (.plicClaimLd 1)] } = .next t) ∧
    claimedSource.plic.Exclusive claimedSource.cfg ∧ claimedSource.plic.LinesCurrent claimedSource.cfg := by
  refine ⟨?_, ?_, ?_⟩
  · obtain ⟨t, h, -⟩ := exists_of_nextWith (r := step { claimedSource with requests := [encode (.plicClaimLd 1)] })
      (p := fun _ => true) (by decide +kernel)
    exact ⟨t, h⟩
  · have none : ∀ c k, c ≠ 0 → (claimedSource.plic.claimedOf c).getLsbD k = false := by
      intro c k hc
      have : claimedSource.plic.claimedOf c = 0#1024 := by
        simp [Plic.claimedOf, claimedSource, cellGet, Ne.symm hc]
      simp [this]
    intro k c c' _ _ h h'
    by_cases hc : c = 0
    · by_cases hc' : c' = 0
      · omega
      · rw [none c' k hc'] at h'; cases h'
    · rw [none c k hc] at h; cases h
  · intro c _
    refine ⟨fun h => ?_, fun ⟨k, _, h, _⟩ => ?_⟩
    · simp [Plic.lineOf, claimedSource, cellGet] at h
    · simp [claimedSource] at h

/-- The highest source takes the highest priority. -/
theorem witness_PlicFieldsStayInBounds :
    Config.sample.valid = true ∧ State.reset.plic.InBounds Config.sample ∧
    ∃ t, step (waiting (.plicPrioritySt 31 7#32)) = .next t ∧ decide (t.plic.prio 31 = 7#32) = true := by
  refine ⟨by decide +kernel, ⟨fun k => ?_, rfl, fun c => ?_, fun k h => ?_, fun c k h => ?_, fun c k h => ?_⟩,
    exists_of_nextWith (by decide +kernel)⟩
  · show (0#32).toNat < 2 ^ 3; decide
  · show (0#32).toNat < 2 ^ 3; decide
  · simp [State.reset, State.initial] at h
  · simp [State.reset, State.initial, Plic.enabledOf, cellGet] at h
  · simp [State.reset, State.initial, Plic.claimedOf, cellGet] at h

theorem witness_ClintOutputsStayCurrent :
    State.reset.clint.OutputsCurrent Config.sample ∧
    ∃ t, step (waiting (.clintIncrement 1#64)) = .next t ∧ decide (t.clint.mtime = 1#64) = true := by
  refine ⟨?_, exists_of_nextWith (by decide +kernel)⟩
  unfold Clint.OutputsCurrent
  decide +kernel

/-- A read of the last block of the image, one word before its end. -/
theorem witness_SdhcTransferStaysConsistent :
    { (reading 508).sdhc with pos := 0x000FFE00#64 }.Consistent ∧
    ∃ t, step { reading 508 with sdhc := { (reading 508).sdhc with pos := 0x000FFE00#64 }, requests := [encode .sdhcBufdataLd] } =
      .next t ∧ decide (t.sdhc.cursor = 0) = true := by
  refine ⟨⟨?_, ?_, ?_, ?_, ?_, ?_⟩, exists_of_nextWith (by decide +kernel)⟩ <;> decide +kernel

theorem witness_FixedBitsAndSdhcLineAreKept :
    (reading 508).sdhc.Fixed Config.sample ∧ (reading 508).uart.Fixed ∧ (reading 508).sdhc.LineCurrent ∧
    ∃ t, step { reading 508 with requests := [encode (.sdhcXfermodeSt 0 2 0xFFFF#64)] } = .next t ∧
      decide (t.sdhc.xfermode = 0xFFFE#16) = true := by
  refine ⟨⟨?_, ?_, ?_, ?_, ?_, ?_, ?_, ?_, ?_, ?_, ?_⟩, ⟨?_, ?_⟩, ?_, exists_of_nextWith (by decide +kernel)⟩
  all_goals first | decide +kernel | (unfold Sdhc.LineCurrent; decide +kernel)

theorem resetMapOk : MapOk (State.reset.devmap 0) := by
  unfold MapOk Mapping.below
  decide +kernel

theorem resetBusOk : State.reset.BusOk := by
  intro b
  by_cases h : b = 0
  · subst h; exact resetMapOk
  · have : State.reset.devmap b = [] := by simp [State.devmap, State.reset, State.initial, cellGet, Ne.symm h]
    rw [this]; exact ⟨.nil, by simp⟩

/-- Before the start an `add_device` waits; after it a load. -/
theorem witness_BusMapStaysInOrder :
    State.reset.BusOk ∧ (∃ t, step (waiting (.busAddDevice 0 0x10000008#64 (.other 1 8))) = .next t ∧
      decide ((t.devmap 0).length = 5) = true) ∧
    ∃ t, step { waiting (.busLoad 0x10#64 4) with started := true } = .next t ∧ t.started = true :=
  ⟨resetBusOk, exists_of_nextWith (by decide +kernel), exists_of_nextWith (by decide +kernel)⟩

/-- The last word of a block is waiting to be written back. -/
theorem witness_MemoryStaysCanonical :
    (writing 508).Canonical ∧ ∃ t, step { writing 508 with requests := [encode (.sdhcBufdataSt 1#32)] } = .next t ∧
      decide (readByte t.sdhc.image 0x3FC = 1#8) = true := by
  refine ⟨⟨?_, ?_, ?_, ?_, ?_, ?_, ?_, ?_, ?_, ?_, ?_, ?_⟩, exists_of_nextWith (by decide +kernel)⟩ <;> decide +kernel

theorem launchOk : Launch.sample.Ok := ⟨by decide +kernel, by decide +kernel, by decide +kernel, by decide +kernel, by decide +kernel⟩

theorem witness_ConstructionMeetsTheInvariants : Launch.sample.Ok ∧ State.construct Launch.sample = .ok State.reset :=
  ⟨launchOk, State.construct_of_ok launchOk⟩

theorem witness_ConstructionState : State.construct Launch.sample = .ok State.reset := State.construct_of_ok launchOk

/-- L1-1e and BUS-9 at construction, parameters out of range (00_scope.md R5), an image file missing (60_exceptions.md R375), and a UART FIFO
that fails to open (70_reset_and_hazards.md R402). -/
theorem test_construction_errors :
    constructionError { Launch.sample with cfg := { Config.sample with clintBase := 0x0C001000#64 } } = some .constructionOverlap ∧
    constructionError { Launch.sample with cfg := { Config.sample with uartSize := 0 } } = some .constructionBadRange ∧
    constructionError { Launch.sample with cfg := { Config.sample with sdhcIrq := 10 } } = some .constructionParameters ∧
    constructionError { Launch.sample with image := none } = some .constructionImageMissing ∧
    constructionError { Launch.sample with rxq := none } = some .constructionFifoMissing ∧
    constructionError { Launch.sample with image := none, cfg := { Config.sample with sdhcMounted := false } } = none := by
  decide +kernel

theorem witness_FailedTransactionsChangeNothing :
    ∃ t, exec (.busLoad 0x10#64 4) State.reset = .next t ∧ decide (t.resp = .failed) = true :=
  exists_of_nextWith (by decide +kernel)

/-- An empty range, two ranges that share one byte, and an `add_device` that overlaps. -/
theorem witness_FaultsOnlyAtConstruction :
    { Config.sample with uartSize := 0 }.uartSize = 0 ∧
    ((0x0C000000#64).toNat ≤ 0x0FFFFFFF ∧ 0x0FFFFFFF < (0x0C000000#64).toNat + 0x4000000 ∧ (0x0FFFFFFF#64).toNat ≤ 0x0FFFFFFF ∧
      0x0FFFFFFF < (0x0FFFFFFF#64).toNat + 8) ∧
    exec (.busAddDevice 0 0x0C001000#64 (.other 1 0x1000)) State.reset = .fault .constructionOverlap ∧
    { State.reset with started := true }.started = true :=
  ⟨rfl, by decide, eq_of_faultWith (by decide +kernel), rfl⟩

theorem witness_ImageChangesOnlyByWriteBack :
    (Instr.sdhcBufdataSt 1#32).wf = true ∧ ∃ t, exec (.sdhcBufdataSt 1#32) (writing 508) = .next t ∧
      decide (readByte t.sdhc.image 0x3FC ≠ readByte (writing 508).sdhc.image 0x3FC) = true :=
  ⟨rfl, exists_of_nextWith (by decide +kernel)⟩

theorem witness_ClaimEndsOnlyByCompleteOrDeassertion :
    (Instr.plicCompleteSt 0 3#32).wf = true ∧ 0 < claimedSource.cfg.plicNumContexts ∧
    (claimedSource.plic.claimedOf 0).getLsbD 3 = true ∧
    ∃ t, exec (.plicCompleteSt 0 3#32) claimedSource = .next t ∧ (!(t.plic.claimedOf 0).getLsbD 3) = true :=
  ⟨by decide, by decide, by decide +kernel, exists_of_nextWith (by decide +kernel)⟩

/-- UA-19: draining the queue lets the line fall, which ends the claim on source 10. -/
theorem test_drain_ends_the_claim :
    nextWith (exec .uartRbrLd { State.reset with
        plic := { State.reset.plic with claimed := [(0, 0x400#1024)] }
        uart := { State.reset.uart with ier := 1#8, rxq := [0x41#8], line := true } })
      (fun t => (!(t.plic.claimedOf 0).getLsbD 10) && !t.uart.line) = true := by decide +kernel

theorem witness_UartQueuesMoveInOrder :
    ∃ t, step { receiving [1#8, 2#8] with requests := [encode .uartRbrLd] } = .next t ∧ decide (t.uart.rxq = [2#8]) = true :=
  exists_of_nextWith (by decide +kernel)

theorem witness_TimeMovesOnlyByTicks :
    State.reset.cfg.clintRealtime = false ∧ State.reset.cfg.clintMtimeWritable = false ∧
    (∀ d, Instr.clintMtimeSt64 5#64 ≠ .clintIncrement d) ∧
    ∃ t, exec (.clintMtimeSt64 5#64) State.reset = .next t ∧ decide (t.clint.mtime = 0#64) = true :=
  ⟨rfl, rfl, (fun d h => by cases h), exists_of_nextWith (by decide +kernel)⟩

/-- The last word of the CLINT, a hole between two devices, and an access past `2^64`. -/
theorem witness_ResolutionFindsTheOneOwner :
    MapOk (State.reset.devmap 0) ∧
    (∃ m ∈ State.reset.devmap 0, m.base.toNat ≤ 0x0200FFFC ∧ 0x0200FFFC + 4 ≤ m.base.toNat + m.size) ∧
    (∀ m ∈ State.reset.devmap 0, ¬(m.base.toNat ≤ 0x0200FFFD ∧ 0x0200FFFD + 4 ≤ m.base.toNat + m.size)) ∧
    2 ^ 64 < (2 ^ 64 - 3) + 4 :=
  ⟨resetMapOk, by decide +kernel, by decide +kernel, by decide⟩

theorem witness_BusAccessesAreRows :
    (State.reset.route 0x0FFFF004#64 4 = some (.plic, 0x3FFF004) ∧ plicLoadRow (plicSlot 0x3FFF004) = some (.plicClaimLd 15871)) ∧
    (State.reset.route 0x0200BFF0#64 8 = some (.clint, 0xBFF0) ∧
      clintLoadRow (clintSlot 2 0xBFF0 8) = some (.clintMtimecmpLd64 4094)) ∧
    (State.reset.route 0x10000007#64 1 = some (.uart, 7) ∧ (uartLoadReg false 7).bind uartLoadRow = some .uartScrLd) ∧
    (State.reset.route 0x100100FF#64 1 = some (.sdhc, 0xFF) ∧ 0xFF = SdhcReg.version.lo + 1 ∧ 1 < SdhcReg.version.len) ∧
    State.reset.route 0x10010020#64 4 = some (.sdhc, SdhcReg.bufdata.lo + 0) := by decide +kernel

/-- An opaque device at 0x30000000. -/
def opaqueMapped : State := { State.reset with bus := [(0, [⟨0x30000000#64, .other 7 0x1000, 0x1000⟩])] }

/-- The last access of each device, and the SDHC on either side of `BUFDATA`. -/
theorem witness_BusLoadCompletes :
    (State.reset.route 0x0FFFFFFC#64 4 = some (.plic, 0x3FFFFFC) ∧ 0x3FFFFFC + 4 ≤ State.reset.cfg.plicSize) ∧
    (State.reset.route 0x0200FFF8#64 8 = some (.clint, 0xFFF8) ∧ 0xFFF8 + 8 ≤ State.reset.cfg.clintSize) ∧
    (State.reset.route 0x10000007#64 1 = some (.uart, 7) ∧ 7 + 1 ≤ State.reset.cfg.uartSize) ∧
    (State.reset.route 0x1001001C#64 4 = some (.sdhc, 0x1C) ∧ SdhcOpen State.reset 0x1C 4) ∧
    (State.reset.route 0x10010024#64 8 = some (.sdhc, 0x24) ∧ SdhcOpen State.reset 0x24 8) ∧
    opaqueMapped.route 0x30000FF8#64 8 = some (.other 7 0x1000, 0xFF8) := by
  unfold SdhcOpen
  decide +kernel

/-- The stores beside the command byte. -/
theorem witness_BusStoreCompletes :
    (State.reset.route 0x1001000E#64 1 = some (.sdhc, 0x0E) ∧ covers 0x0E 1 0x0F = false ∧ SdhcOpen State.reset 0x0E 1) ∧
    (State.reset.route 0x10010010#64 8 = some (.sdhc, 0x10) ∧ covers 0x10 8 0x0F = false ∧ SdhcOpen State.reset 0x10 8) ∧
    opaqueMapped.route 0x30000FF8#64 8 = some (.other 7 0x1000, 0xFF8) := by
  unfold SdhcOpen
  decide +kernel

theorem witness_BadLengthsAreRefusedAndUnmappedAccessesFail :
    2 ^ 64 < (0xFFFFFFFFFFFFFFFD#64).toNat + 4 ∧
    (∀ m ∈ State.reset.devmap 0, ¬(m.base.toNat ≤ (0x0FFFFFFD#64).toNat ∧ (0x0FFFFFFD#64).toNat + 4 ≤ m.base.toNat + m.size)) := by
  decide +kernel

theorem witness_WidthsTheDeviceDoesNotAdmitAreRefused :
    State.reset.route 0x0C000002#64 4 = some (.plic, 2) ∧ State.reset.route 0x0200BFFC#64 8 = some (.clint, 0xBFFC) ∧
    (State.reset.route 0x02000000#64 8 = some (.clint, 0) ∧ 0 / 4 < State.reset.cfg.numHarts) ∧
    State.reset.route 0x10000006#64 2 = some (.uart, 6) ∧
    (State.reset.route 0x1001001E#64 4 = some (.sdhc, 0x1E) ∧ 0x20 < 0x1E + 4 ∧ State.reset.sdhc.mounted = true) ∧
    (State.reset.route 0x10010023#64 1 = some (.sdhc, 0x23) ∧ 0x23 < 0x24) := by decide +kernel

/-- A started machine; an empty range, one past `2^64`, one that meets the UART in its last byte, and one that ends exactly at `2^64`. -/
theorem witness_AddDeviceExtendsTheMap :
    { State.reset with started := true }.started = true ∧ State.reset.started = false ∧ deviceSize State.reset.cfg (.other 1 0) = 0 ∧
    2 ^ 64 < (0xFFFFFFFFFFFFFFFF#64).toNat + deviceSize State.reset.cfg (.other 1 2) ∧
    (∃ m ∈ State.reset.devmap 0, ∃ a, (0x10000007#64).toNat ≤ a ∧ a < (0x10000007#64).toNat + 8 ∧
      m.base.toNat ≤ a ∧ a < m.base.toNat + m.size) ∧
    (0xFFFFFFFFFFFFFFF8#64).toNat + 8 ≤ 2 ^ 64 ∧
    (∀ m ∈ State.reset.devmap 0, m.size ≠ 0 ∧ ∀ a, (0xFFFFFFFFFFFFFFF8#64).toNat ≤ a → a < (0xFFFFFFFFFFFFFFF8#64).toNat + 8 →
      ¬(m.base.toNat ≤ a ∧ a < m.base.toNat + m.size)) := by
  refine ⟨rfl, rfl, rfl, by decide, ⟨⟨0x10000000#64, .uart, 8⟩, by decide +kernel, 0x10000007, by decide⟩, by decide, fun m hm => ?_⟩
  have low : ∀ m ∈ State.reset.devmap 0, m.size ≠ 0 ∧ m.base.toNat + m.size ≤ (0xFFFFFFFFFFFFFFF8#64).toNat := by decide +kernel
  have := low m hm
  exact ⟨this.1, fun a h _ h' => by omega⟩

theorem witness_FindDeviceNamesTheOwner :
    MapOk (State.reset.devmap 0) ∧
    (∃ m ∈ State.reset.devmap 0, m.base.toNat ≤ (0x10000007#64).toNat ∧ (0x10000007#64).toNat < m.base.toNat + m.size) ∧
    (∀ m ∈ State.reset.devmap 0, ¬(m.base.toNat ≤ (0x10000008#64).toNat ∧ (0x10000008#64).toNat < m.base.toNat + m.size)) :=
  ⟨resetMapOk, by decide +kernel, by decide +kernel⟩

/-- A nested Bus at 0x30000000 with a device at its local base 0x100 (BUS-10). -/
def nested : State := { State.reset with bus :=
  [(0, [⟨0x30000000#64, .bus 1 0x1000, 0x1000⟩]), (1, [⟨0x100#64, .uart, 8⟩])] }

theorem witness_NestedBusTranslationsCompose :
    MapOk (nested.devmap 0) ∧ MapOk (nested.devmap 1) ∧ ⟨0x30000000#64, .bus 1 0x1000, 0x1000⟩ ∈ nested.devmap 0 ∧
    ⟨0x100#64, .uart, 8⟩ ∈ nested.devmap 1 ∧ (0x30000000#64).toNat ≤ (0x30000107#64).toNat ∧
    (0x30000107#64).toNat - (0x30000000#64).toNat + 1 ≤ (0x100#64).toNat + 8 := by
  unfold MapOk Mapping.below
  decide +kernel

theorem test_nested_route : nested.route 0x30000104#64 4 = some (.uart, 4) := by decide +kernel

theorem witness_AtomicsAndFetchesAreNotForDevices :
    decode (record [3, 0, 3, 0] [0x04, 0, 0, 0x0C] [] []) = .error (.atomic 0x0C000004#64 4) ∧
    State.reset.route 0x0C000004#64 4 = some (.plic, 4) ∧
    decode (record [4, 0, 3, 0] [0x10] [] []) = .error (.fetch 0x10#64 4) ∧ State.reset.route 0x10#64 4 = none := by
  refine ⟨rfl, by decide +kernel, rfl, by decide +kernel⟩

theorem witness_HolesFollowTheirPolicy :
    (State.reset.route 0x0C001080#64 4 = some (.plic, 0x1080) ∧ plicSlot 0x1080 = .hole) ∧
    (State.reset.route 0x02000008#64 8 = some (.clint, 8) ∧ clintSlot State.reset.cfg.numHarts 8 8 = .hole) ∧
    ((built { Config.sample with uartRegShift := 2, uartSize := 0x20 }).route 0x1000001F#64 1 = some (.uart, 0x1F) ∧
      uartIndex 2 0x1F = none) ∧
    ((built { Config.sample with holeSdhc := .fail }).route 0x10010029#64 2 = some (.sdhc, 0x29) ∧ coversHole 0x29 2 = true) := by
  decide +kernel

/-- Every device one byte too small for the access. -/
theorem witness_RowsOutsideTheDeviceFail :
    (State.reset.cfg.plicSize < (PlicSlot.claim 15871).offset + 4 ∨
      { Config.sample with plicSize := 0x3FFF007 }.plicSize < (Instr.plicClaimLd 15871).frame.a.toNat + 4) ∧
    (Instr.plicClaimLd 15871).frame.sel = 1#8 ∧
    { Config.sample with clintSize := 0xBFFF }.clintSize < Instr.clintMtimeLd64.frame.a.toNat + Instr.clintMtimeLd64.frame.len.toNat + 1 ∧
    { Config.sample with sdhcSize := 0xFF }.sdhcSize <
      (Instr.sdhcVersionLd 1 1).frame.a.toNat + (Instr.sdhcVersionLd 1 1).frame.len.toNat + 1 ∧
    { Config.sample with uartSize := 7 }.uartSize < Instr.uartScrLd.frame.a.toNat * 2 ^ 0 + 1 := by decide +kernel

/-- Sources 0, 1, 31 and 32 in the example configuration. -/
theorem witness_PriorityRegisters :
    (PlicSlot.priority 32).offset + 4 ≤ Config.sample.plicSize ∧ 1 ≤ 1 ∧ 31 ≤ Config.sample.plicNumSources ∧
    Config.sample.plicNumSources < 32 := by decide

theorem witness_PendingWords :
    (PlicSlot.pending 31).offset + 4 ≤ Config.sample.plicSize ∧ Config.sample.plicNumSources ≤ 1023 ∧
    32 * 0 ≤ Config.sample.plicNumSources ∧ Config.sample.plicNumSources < 32 * 1 := by decide

theorem witness_EnableWords :
    (PlicSlot.enable 15871 31).offset + 4 ≤ Config.sample.plicSize ∧ 1 < Config.sample.plicNumContexts ∧
    Config.sample.plicNumContexts ≤ 2 ∧ Config.sample.plicNumSources < 32 * 1 := by decide

theorem witness_ThresholdRegisters :
    (PlicSlot.threshold 15871).offset + 4 ≤ Config.sample.plicSize ∧ 1 < Config.sample.plicNumContexts ∧
    Config.sample.plicNumContexts ≤ 2 := by decide

/-- With sources 1 and 2 pending context 0 has an eligible source and context 1 has none. -/
theorem witness_ClaimTakesTheBestEligibleSource :
    (PlicSlot.claim 15871).offset + 4 ≤ twoSources.cfg.plicSize ∧ 1 < twoSources.cfg.plicNumContexts ∧
    (∀ k, IsSource twoSources.cfg k → ¬ twoSources.plic.Eligible twoSources.cfg 1 k) ∧
    (∃ k, IsSource twoSources.cfg k ∧ twoSources.plic.Eligible twoSources.cfg 0 k) ∧ twoSources.cfg.plicNumContexts ≤ 2 := by
  refine ⟨by decide, by decide, fun k _ h => ?_, ⟨2, by decide, by unfold Plic.Eligible; decide +kernel⟩, by decide⟩
  have : twoSources.plic.enabledOf 1 = 0#1024 := by decide +kernel
  simp [Plic.Eligible, this] at h

theorem witness_CompleteReleasesTheClaim :
    (PlicSlot.claim 15871).offset + 4 ≤ claimedSource.cfg.plicSize ∧
    (IsSource claimedSource.cfg (3#32).toNat ∧ (claimedSource.plic.claimedOf 0).getLsbD (3#32).toNat = true) ∧
    ¬(IsSource claimedSource.cfg (32#32).toNat ∧ (claimedSource.plic.claimedOf 0).getLsbD (32#32).toNat = true) ∧
    claimedSource.cfg.plicNumContexts ≤ 2 := by decide +kernel

theorem witness_RaiseIrqSetsOrWithdrawsTheSource :
    IsSource Config.sample 1 ∧ IsSource Config.sample 31 ∧ Config.sample.plicNumSources < 32 ∧ Config.sample.plicNumSources ≤ 1023 := by
  decide

theorem twoSourcesLines : twoSources.plic.LinesCurrent twoSources.cfg := by
  intro c hc
  have hc : c < 2 := hc
  by_cases h : c = 0
  · subst h
    exact ⟨fun _ => ⟨2, by decide, by unfold Plic.Eligible; decide +kernel⟩, fun _ => by decide +kernel⟩
  · have hc1 : c = 1 := by omega
    subst hc1
    refine ⟨fun h' => absurd h' (by decide +kernel), fun ⟨k, _, h'⟩ => ?_⟩
    have : twoSources.plic.enabledOf 1 = 0#1024 := by decide +kernel
    simp [Plic.Eligible, this] at h'

theorem witness_IntCheckReturnsTheLine :
    1 < twoSources.cfg.plicNumContexts ∧ twoSources.plic.LinesCurrent twoSources.cfg ∧
    (PlicSlot.claim 1).offset + 4 ≤ twoSources.cfg.plicSize ∧ twoSources.cfg.plicNumContexts ≤ 2 ∧
    (twoSources.cfg.ctxValid = true ∧ ((1, Mode.machine), 1) ∈ twoSources.cfg.ctxOf) ∧
    ∀ c, ((1, Mode.supervisor), c) ∉ twoSources.cfg.ctxOf :=
  ⟨by decide, twoSourcesLines, by decide, by decide, by decide +kernel, by simp [twoSources, State.reset, State.initial, Launch.sample, Config.sample]⟩

/-- 60_exceptions.md R376: context 0 serves hart 0 in machine mode, and no context serves supervisor mode. -/
theorem test_external_pending :
    twoSources.externalPending 0 .machine = some true ∧ twoSources.externalPending 1 .machine = some false ∧
    twoSources.externalPending 0 .supervisor = none := by decide +kernel

/-- Harts 1 and 2 of two. -/
theorem witness_MsipRegisters :
    (ClintSlot.msip 2).offset + 4 ≤ Config.sample.clintSize ∧ 1 < Config.sample.numHarts ∧ Config.sample.numHarts ≤ 2 := by decide

theorem witness_MtimecmpLoads :
    (ClintSlot.cmp64 4094).offset + 8 ≤ Config.sample.clintSize ∧ (ClintSlot.cmpLo 4094).offset + 4 ≤ Config.sample.clintSize ∧
    (ClintSlot.cmpHi 4094).offset + 4 ≤ Config.sample.clintSize := by decide

/-- The new values of the low and the high half, tick and real-time mode, a present and an absent hart. -/
theorem witness_MtimecmpStores :
    (ClintSlot.cmp64 2).offset + 8 ≤ Config.sample.clintSize ∧
    (0xFFFFFFFF00000010#64).toNat = (State.reset.clint.cmp Config.sample 1).toNat / 2 ^ 32 * 2 ^ 32 + (0x10#32).toNat ∧
    (0x00000010FFFFFFFF#64).toNat = (0x10#32).toNat * 2 ^ 32 + (State.reset.clint.cmp Config.sample 1).toNat % 2 ^ 32 ∧
    1 < Config.sample.numHarts ∧ Config.sample.clintRealtime = false ∧
    { Config.sample with clintRealtime := true }.clintRealtime = true ∧ Config.sample.numHarts ≤ 2 := by decide +kernel

theorem witness_MtimeLoads :
    0xBFF8 + 8 ≤ Config.sample.clintSize ∧ 0xBFFC + 4 ≤ Config.sample.clintSize ∧ Config.sample.clintRealtime = false ∧
    { Config.sample with clintRealtime := true }.clintRealtime = true := by decide

theorem witness_MtimeStores :
    (0x0000000100000010#64).toNat = (timed 0x0000000100000002#64 0#64).clint.mtime.toNat / 2 ^ 32 * 2 ^ 32 + (0x10#32).toNat ∧
    (0x0000001000000002#64).toNat = (0x10#32).toNat * 2 ^ 32 + (timed 0x0000000100000002#64 0#64).clint.mtime.toNat % 2 ^ 32 ∧
    Config.sample.clintMtimeWritable = false ∧ { Config.sample with clintMtimeWritable := true }.clintMtimeWritable = true := by
  decide +kernel

theorem witness_IncrementAdvancesTime :
    State.reset.cfg.clintRealtime = false ∧ (built { Config.sample with clintRealtime := true }).cfg.clintRealtime = true := ⟨rfl, rfl⟩

theorem witness_TimerFiresExactlyAtTheCompare :
    (1 < State.reset.cfg.numHarts ∧ (ClintSlot.cmp64 1).offset + 8 ≤ State.reset.cfg.clintSize ∧
      (timed 0xFFFFFFFFFFFFFFFE#64 0#64).clint.mtime.toNat + 1 < 2 ^ 64) ∧
    State.reset.clint.OutputsCurrent State.reset.cfg ∧
    ∃ t, exec (.clintMsipSt 1 1#32) State.reset = .next t ∧
      decide (t.clint.msipOutOf 1 ≠ State.reset.clint.msipOutOf 1) = true :=
  ⟨by decide +kernel, witness_ClintOutputsStayCurrent.1, exists_of_nextWith (by decide +kernel)⟩

/-- A row's load and store reach the offset of its register. -/
theorem rowLoads (s : State) (n : Nat) (r : SdhcReg) (k : Nat) (h : r ≠ .bufdata) (hk : k < r.len) :
    SdhcLoads s (r.lo + k) n (r.ldInstr k n) := .inl ⟨r, k, h, hk, rfl, rfl⟩
theorem rowStores (s : State) (n : Nat) (v : DWord) (r : SdhcReg) (k : Nat) (h : r ≠ .bufdata) (hk : k < r.len) :
    SdhcStores s (r.lo + k) n v (r.stInstr k n v) := .inl ⟨r, k, h, hk, rfl, rfl⟩

/-- The last byte of the bank, an access over several registers and holes, the accesses beside `BUFDATA`, and a Bus access whose first
byte is a hole. -/
theorem witness_SdhcRegisterLoads :
    (SdhcLoads State.reset 0xFF 1 (.sdhcVersionLd 1 1) ∧ SdhcOpen State.reset 0xFF 1) ∧
    (SdhcLoads State.reset 0x29 8 (.sdhcPwrctlLd 0 8) ∧ SdhcOpen State.reset 0x29 8) ∧
    (SdhcLoads State.reset 0x1C 4 (.sdhcRespLd 12 4) ∧ SdhcOpen State.reset 0x1C 4 ∧ 0x1C + 4 ≤ 0x20) ∧
    (SdhcLoads State.reset 0x24 8 (.sdhcPrsntLd 0 8) ∧ SdhcOpen State.reset 0x24 8) ∧
    (SdhcLoads State.reset 0xFD 1 (.busLoad 0x100100FD#64 1) ∧ SdhcOpen State.reset 0xFD 1) := by
  refine ⟨⟨rowLoads _ _ .version 1 (by decide) (by decide), ?_⟩, ⟨rowLoads _ _ .pwrctl 0 (by decide) (by decide), ?_⟩,
    ⟨rowLoads _ _ .resp 12 (by decide) (by decide), ?_, by decide⟩, ⟨rowLoads _ _ .prsnt 0 (by decide) (by decide), ?_⟩,
    ⟨.inr ⟨_, by decide +kernel, rfl⟩, ?_⟩⟩ <;> (unfold SdhcOpen; decide +kernel)

/-- SD-23 and R264: the store at the hole 0x2A is ignored there and reaches `CLKCTL` and `TOCTL`; the load reads 0 there. -/
theorem test_hole_bytes_through_the_bus :
    nextWith (exec (.busStore 0x1001002A#64 8 0x0000000512341234#64)
        { State.reset with sdhc := { State.reset.sdhc with hostctl := 0x11#8, pwrctl := 0x22#8 } })
      (fun t => decide (t.sdhc.clkctl = 0x1234#16 ∧ t.sdhc.toctl = 0x05#8 ∧ t.sdhc.hostctl = 0x11#8 ∧ t.sdhc.pwrctl = 0x22#8)) = true ∧
    nextWith (exec (.busLoad 0x1001002A#64 1) State.reset) (fun t => decide (t.resp = .loaded 1 0#64)) = true := by decide +kernel

theorem witness_SdhcWholeRegisterLoads : State.reset.sdhc.mounted = true ∧ 0x100 ≤ State.reset.cfg.sdhcSize := by decide +kernel

/-- The bytes beside the command byte and the reset byte, a read-only register, and a Bus store into a hole. -/
theorem witness_SdhcRegisterStores :
    (SdhcStores State.reset 0x0E 1 0#64 (.sdhcCmdSt 0 1 0#64) ∧ SdhcOpen State.reset 0x0E 1 ∧ covers 0x0E 1 0x0F = false) ∧
    (SdhcStores State.reset 0x2E 1 0#64 (.sdhcToctlSt 0 1 0#64) ∧ SdhcOpen State.reset 0x2E 1 ∧ covers 0x2E 1 0x2F = false) ∧
    (SdhcStores State.reset 0x10 8 0#64 (.sdhcRespSt 0 8 0#64) ∧ SdhcOpen State.reset 0x10 8 ∧ covers 0x10 8 0x0F = false) ∧
    (SdhcStores State.reset 0x3C 4 0#64 (.busStore 0x1001003C#64 4 0#64) ∧ SdhcOpen State.reset 0x3C 4) ∧
    State.reset.sdhc.xfermode.getLsbD 0 = false := by
  refine ⟨⟨rowStores _ _ _ .cmd 0 (by decide) (by decide), ?_, by decide⟩, ⟨rowStores _ _ _ .toctl 0 (by decide) (by decide), ?_, by decide⟩,
    ⟨rowStores _ _ _ .resp 0 (by decide) (by decide), ?_, by decide⟩, ⟨.inr ⟨_, by decide +kernel, rfl⟩, ?_⟩, by decide +kernel⟩ <;>
    (unfold SdhcOpen; decide +kernel)

theorem witness_TransferModeAndStatusStores : State.reset.sdhc.mounted = true ∧ 0x100 ≤ State.reset.cfg.sdhcSize := by decide +kernel

/-- Stores of `CMD` whole and of its high byte, and of `XFERMODE` with `CMD`: index 16 (no data command), a transfer active, a block
size of 513, a block that ends at the image's end and one that ends a byte past it. -/
theorem witness_CommandStoresIssueTheCommand :
    (SdhcStores readyCard 0x0F 1 0x11#64 (.sdhcCmdSt 1 1 0x11#64) ∧ SdhcStores readyCard 0x0E 2 0x1100#64 (.busStore 0x1001000E#64 2 0x1100#64)) ∧
    (covers 0x0F 1 0x0F = true ∧ SdhcOpen readyCard 0x0F 1) ∧ (covers 0x0C 4 0x0F = true ∧ SdhcOpen readyCard 0x0C 4) ∧
    (readyCard.sdhc.putValueAt 0x0E 2 0x1000#64).cmd.toNat / 256 % 64 = 16 ∧
    (readyCard.sdhc.putValueAt 0x0E 2 0x1900#64).cmd.toNat / 256 % 64 = 25 ∧
    ((reading 0).sdhc.putValueAt 0x0E 2 0x1200#64).xfer ≠ .none ∧
    { readyCard.sdhc with blksize := 0x0201#16 }.blksize.toNat % 4096 ≠ 512 ∧
    ((readyCard.sdhc.putValueAt 0x0E 2 0x1100#64).xfer = .none ∧ (readyCard.sdhc.putValueAt 0x0E 2 0x1100#64).blksize.toNat % 4096 = 512) ∧
    { readyCard.sdhc with arg := 0x000FFE00#32 }.arg.toNat + 512 ≤ readyCard.sdhc.capacity.toNat ∧
    readyCard.sdhc.capacity.toNat < { readyCard.sdhc with arg := 0x000FFE01#32 }.arg.toNat + 512 := by
  refine ⟨⟨rowStores _ _ _ .cmd 1 (by decide) (by decide), .inr ⟨_, by decide +kernel, rfl⟩⟩, ?_⟩
  unfold SdhcOpen
  decide +kernel

/-- By the row of `SWRST` and of `CLKCTL`, and through the Bus from the hole at 0x2A. -/
theorem witness_SoftwareResetStores :
    (SdhcStores readyCard 0x2F 1 0x06#64 (.sdhcSwrstSt 0 1 0x06#64) ∧ SdhcStores readyCard 0x2C 4 0x07000000#64 (.sdhcClkctlSt 0 4 0x07000000#64) ∧
      SdhcStores readyCard 0x2A 8 0x070000000000#64 (.busStore 0x1001002A#64 8 0x070000000000#64)) ∧
    (covers 0x2F 1 0x2F = true ∧ SdhcOpen readyCard 0x2F 1) ∧ (covers 0x2C 4 0x2F = true ∧ SdhcOpen readyCard 0x2C 4) ∧
    (covers 0x2A 8 0x2F = true ∧ SdhcOpen readyCard 0x2A 8) ∧
    (getByte (0x070000000000#64) (0x2F - 0x2A)).getLsbD 0 = true ∧ (getByte (0x06#64) (0x2F - 0x2F)).getLsbD 0 = false := by
  refine ⟨⟨rowStores _ _ _ .swrst 0 (by decide) (by decide), rowStores _ _ _ .clkctl 0 (by decide) (by decide),
    .inr ⟨_, by decide +kernel, rfl⟩⟩, ?_⟩
  unfold SdhcOpen
  decide +kernel

/-- Not ready; a block size that has changed; one word, and the last word, of a block. -/
theorem witness_BufferLoads :
    (readyCard.sdhc.mounted = true ∧ 0x24 ≤ readyCard.cfg.sdhcSize) ∧ readyCard.sdhc.xfer ≠ .read ∧
    ((reading 504).sdhc.xfer = .read ∧ (reading 504).sdhc.prsnt.getLsbD 11 = true) ∧
    { (reading 0).sdhc with blksize := 0x0100#16 }.blksize.toNat % 4096 ≠ 512 ∧ (reading 504).sdhc.blksize.toNat % 4096 = 512 ∧
    (reading 504).sdhc.cursor + 4 ≠ 512 ∧ (reading 508).sdhc.cursor + 4 = 512 := by decide +kernel

theorem witness_BufferStores :
    (readyCard.sdhc.mounted = true ∧ 0x24 ≤ readyCard.cfg.sdhcSize) ∧ (reading 0).sdhc.xfer ≠ .write ∧
    ((writing 504).sdhc.xfer = .write ∧ (writing 504).sdhc.prsnt.getLsbD 10 = true) ∧
    { (writing 0).sdhc with blksize := 0x0100#16 }.blksize.toNat % 4096 ≠ 512 ∧ (writing 504).sdhc.blksize.toNat % 4096 = 512 ∧
    (writing 504).sdhc.cursor + 4 ≠ 512 ∧ (writing 508).sdhc.cursor + 4 = 512 := by decide +kernel

theorem witness_UnmountedAccessesFail :
    (built { Config.sample with sdhcMounted := false }).sdhc.mounted = false ∧
    (built { Config.sample with sdhcMounted := false }).route 0x100100F8#64 8 = some (.sdhc, 0xF8) := by decide +kernel

theorem witness_BlockReadReturnsTheImage :
    readyCard.sdhc.mounted = true ∧ 0x24 ≤ readyCard.cfg.sdhcSize ∧ readyCard.sdhc.xfer = .none ∧
    readyCard.sdhc.blksize.toNat % 4096 = 512 ∧ readyCard.sdhc.arg.toNat + 512 ≤ readyCard.sdhc.capacity.toNat := by decide +kernel

/-- Every register number, with `DLAB` clear and set. -/
theorem witness_UartStores :
    (InUart (lineControl 0x7F#8) 0 ∧ InUart (lineControl 0x7F#8) 1 ∧ InUart (lineControl 0x7F#8) 2 ∧ InUart (lineControl 0x7F#8) 3 ∧
      InUart (lineControl 0x7F#8) 4 ∧ InUart (lineControl 0x7F#8) 5 ∧ InUart (lineControl 0x7F#8) 6 ∧ InUart (lineControl 0x7F#8) 7) ∧
    (lineControl 0x7F#8).uart.lcr.getLsbD 7 = false ∧ (lineControl 0x80#8).uart.lcr.getLsbD 7 = true := by
  unfold InUart
  decide +kernel

theorem witness_UartLoads :
    (InUart (receiving [1#8]) 0 ∧ InUart (receiving [1#8]) 7) ∧ (receiving [1#8]).uart.lcr.getLsbD 7 = false ∧
    (lineControl 0x80#8).uart.lcr.getLsbD 7 = true ∧ (receiving [1#8]).uart.rxq = 1#8 :: [] ∧ (receiving []).uart.rxq = [] := by
  unfold InUart
  decide +kernel

end Sys2Proof.Tests
end

section
/-! PROOFS. The invariants of 10_state.md that every step keeps: PLIC claims and lines (O5, O6, O17), canonical memory (O11), fixed
bits (O9) and the Bus's maps (O10). -/

namespace Sys2Proof.Machine

/-! ### What each PLIC operation does to the claimed and pending bits -/

/-- A source that `claim(c)` picks exists and is eligible (41_plic.md R193). -/
theorem Plic.best_source {cfg : Config} {p : Plic} {c : Nat} (h : p.best cfg c cfg.plicNumSources ≠ 0) :
    IsSource cfg (p.best cfg c cfg.plicNumSources) ∧ p.Eligible cfg c (p.best cfg c cfg.plicNumSources) := by
  rcases p.best_spec cfg c cfg.plicNumSources with ⟨h0, -⟩ | ⟨h1, hN, he, -⟩
  · exact absurd h0 h
  · exact ⟨⟨h1, hN⟩, (Plic.eligible_iff _ _ _ _).1 he⟩

/-- `claim(c)` sets the one bit of the source it picks, if any, and no other. -/
theorem Plic.claim_claimed_bit (cfg : Config) (p : Plic) (c c' j : Nat) :
    ((p.claim cfg c).claimedOf c').getLsbD j = true ↔
      (p.claimedOf c').getLsbD j = true ∨ (c' = c ∧ j = p.best cfg c cfg.plicNumSources ∧ j ≠ 0) := by
  by_cases h0 : p.best cfg c cfg.plicNumSources = 0
  · rw [Plic.claim_of_none h0, h0]
    tauto
  · have hlt := Plic.eligible_lt ((Plic.eligible_iff _ _ _ _).2 (Plic.best_source h0).2)
    rw [Plic.claim_of_some rfl h0, Plic.update_claimedOf]
    show ((p.setClaimed c _ true).claimedOf c').getLsbD j = true ↔ _
    rw [Plic.setClaimed_bit]
    grind

/-- `complete(c, k)` clears at most the claim of `c` on `k`. -/
theorem Plic.complete_claimed_bit (cfg : Config) (p : Plic) (c k c' j : Nat) :
    ((p.complete cfg c k).claimedOf c').getLsbD j = true ↔
      (p.claimedOf c').getLsbD j = true ∧ ¬(IsSource cfg k ∧ c' = c ∧ j = k) := by
  by_cases h : IsSource cfg k ∧ (p.claimedOf c).getLsbD k = true
  · rw [Plic.complete_of_claimed h.1 h.2, Plic.update_claimedOf, Plic.setClaimed_bit]
    have hk : k < 1024 := BitVec.lt_of_getLsbD h.2
    grind
  · rw [Plic.complete_of_not h]
    grind

/-- What a PLIC operation does to the claims: it only clears some, or it sets the one of a context on a source eligible for it. -/
theorem PlicMove.claims {cfg : Config} {p q : Plic} (h : PlicMove cfg p q) :
    (∀ c j, (q.claimedOf c).getLsbD j = true → (p.claimedOf c).getLsbD j = true) ∨
    ∃ c k, IsSource cfg k ∧ p.Eligible cfg c k ∧
      ∀ c' j, (q.claimedOf c').getLsbD j = true ↔ (p.claimedOf c').getLsbD j = true ∨ (c' = c ∧ j = k) := by
  cases h with
  | same | priority | enable | threshold | update => exact .inl fun _ _ h => h
  | complete c k => exact .inl fun c' j h => ((Plic.complete_claimed_bit cfg p c k c' j).1 h).1
  | raise k l =>
    refine .inl fun c j h => ?_
    rw [Plic.raise_claimed_bit, Bool.and_eq_true] at h
    exact h.1
  | claim c =>
    by_cases h0 : p.best cfg c cfg.plicNumSources = 0
    · rw [Plic.claim_of_none h0]
      exact .inl fun _ _ h => h
    · obtain ⟨hk, he⟩ := Plic.best_source h0
      refine .inr ⟨c, _, hk, he, fun c' j => ?_⟩
      rw [Plic.claim_claimed_bit]
      grind

/-! ### O5: exclusive claims and current lines (10_state.md R29) -/

/-- A new claim is on an eligible source, which no context has claimed. -/
theorem PlicMove.exclusive {cfg : Config} {p q : Plic} (h : PlicMove cfg p q) (hp : p.Exclusive cfg) : q.Exclusive cfg := by
  intro k c c' hc hc' hk hk'
  rcases h.claims with hsub | ⟨c₀, k₀, -, ⟨-, -, hfree, -⟩, hset⟩
  · exact hp k c c' hc hc' (hsub c k hk) (hsub c' k hk')
  · rcases (hset c k).1 hk with hold | ⟨rfl, rfl⟩
    · rcases (hset c' k).1 hk' with hold' | ⟨rfl, rfl⟩
      · exact hp k c c' hc hc' hold hold'
      · rw [hfree c hc] at hold; cases hold
    · rcases (hset c' k).1 hk' with hold' | ⟨rfl, -⟩
      · rw [hfree c' hc'] at hold'; cases hold'
      · rfl

/-- Every PLIC operation that changes anything ends in `update()`. -/
theorem PlicMove.eq_or_current {cfg : Config} {p q : Plic} (h : PlicMove cfg p q) : q = p ∨ q.LinesCurrent cfg := by
  cases h with
  | same => exact .inl rfl
  | priority | enable | threshold | update => exact .inr (Plic.update_current _ _)
  | raise k l => exact .inr (Plic.raise_current _ _ _ _)
  | claim c =>
    by_cases h0 : p.best cfg c cfg.plicNumSources = 0
    · exact .inl (Plic.claim_of_none h0)
    · rw [Plic.claim_of_some rfl h0]
      exact .inr (Plic.update_current _ _)
  | complete c k =>
    by_cases h : IsSource cfg k ∧ (p.claimedOf c).getLsbD k = true
    · rw [Plic.complete_of_claimed h.1 h.2]
      exact .inr (Plic.update_current _ _)
    · exact .inl (Plic.complete_of_not h)

theorem PlicMove.linesCurrent {cfg : Config} {p q : Plic} (h : PlicMove cfg p q) (hp : p.LinesCurrent cfg) :
    q.LinesCurrent cfg := by
  rcases h.eq_or_current with rfl | hq
  · exact hp
  · exact hq

/-- Settles O5: a claim takes only a source no context holds, and every operation that changes the PLIC ends in `update()`. -/
theorem plicInvariantsAreKept : Obligations.PlicInvariantsAreKept := by
  intro s t h
  refine ⟨step_keeps (P := fun s => s.plic.Exclusive s.cfg) (fun _ _ hs => hs) (fun s t hs he => ?_) h,
    step_keeps (P := fun s => s.plic.LinesCurrent s.cfg) (fun _ _ hs => hs) (fun s t hs he => ?_) h⟩
  · rw [he.cfg]; exact he.plic.exclusive hs
  · rw [he.cfg]; exact he.plic.linesCurrent hs

/-! ### O6: priorities, thresholds and sources stay in bounds (10_state.md R23 to R27) -/

/-- The sources of the UART and the SDHC exist, and source numbers fit the 1024-bit maps (00_scope.md R5). -/
theorem Config.sources_of_valid {cfg : Config} (h : cfg.valid = true) :
    cfg.plicNumSources ≤ 1023 ∧ IsSource cfg cfg.uartIrq ∧ IsSource cfg cfg.sdhcIrq := by
  simp only [Config.valid, Config.paramsValid, Bool.and_eq_true, decide_eq_true_eq] at h
  obtain ⟨⟨⟨⟨⟨⟨⟨⟨⟨⟨⟨⟨-, hN⟩, -⟩, -⟩, hu⟩, hs⟩, -⟩, -⟩, -⟩, -⟩, -⟩, -⟩, -⟩ := h
  exact ⟨hN.2, hu, hs⟩

theorem lowBits_lt (n : Nat) (v : Word) : (lowBits n v).toNat < 2 ^ n := by
  rw [toNat_lowBits]
  exact Nat.mod_lt _ (Nat.two_pow_pos n)

theorem Plic.claim_rest (cfg : Config) (p : Plic) (c : Nat) :
    (p.claim cfg c).priority = p.priority ∧ (p.claim cfg c).enabled = p.enabled ∧ (p.claim cfg c).threshold = p.threshold := by
  unfold Plic.claim
  split <;> exact ⟨rfl, rfl, rfl⟩

theorem Plic.complete_rest (cfg : Config) (p : Plic) (c k : Nat) :
    (p.complete cfg c k).priority = p.priority ∧ (p.complete cfg c k).enabled = p.enabled ∧
    (p.complete cfg c k).threshold = p.threshold ∧ (p.complete cfg c k).pending = p.pending := by
  unfold Plic.complete
  split <;> exact ⟨rfl, rfl, rfl, rfl⟩

/-- `claim(c)` sets no pending bit. -/
theorem Plic.claim_pending_bit {cfg : Config} {p : Plic} {c j : Nat} (h : (p.claim cfg c).pending.getLsbD j = true) :
    p.pending.getLsbD j = true := by
  by_cases h0 : p.best cfg c cfg.plicNumSources = 0
  · rwa [Plic.claim_of_none h0] at h
  · rw [Plic.claim_of_some rfl h0, Plic.update_pending, Plic.setPending_bit] at h
    split at h
    · cases h
    · exact h

/-- An operation that writes none of the register arrays keeps the bounds if the bits it sets are those of sources. -/
theorem Plic.InBounds.of_bits {cfg : Config} {p q : Plic} (hp : p.InBounds cfg) (hprio : q.priority = p.priority)
    (henabled : q.enabled = p.enabled) (hthresh : q.threshold = p.threshold)
    (hpending : ∀ k, q.pending.getLsbD k = true → p.pending.getLsbD k = true ∨ IsSource cfg k)
    (hclaimed : ∀ c k, (q.claimedOf c).getLsbD k = true → (p.claimedOf c).getLsbD k = true ∨ IsSource cfg k) :
    q.InBounds cfg where
  prio k := by rw [Plic.prio, hprio]; exact hp.prio k
  prioZero := by rw [Plic.prio, hprio]; exact hp.prioZero
  thresh c := by rw [Plic.thresh, hthresh]; exact hp.thresh c
  pending k h := (hpending k h).elim (hp.pending k) id
  enabled c k h := by rw [Plic.enabledOf, henabled] at h; exact hp.enabled c k h
  claimed c k h := (hclaimed c k h).elim (hp.claimed c k) id

theorem Plic.InBounds.claims {cfg : Config} {p q : Plic} (hp : p.InBounds cfg) (h : PlicMove cfg p q) (c k : Nat)
    (hk : (q.claimedOf c).getLsbD k = true) : IsSource cfg k := by
  rcases h.claims with hsub | ⟨c₀, k₀, hk₀, -, hset⟩
  · exact hp.claimed c k (hsub c k hk)
  · rcases (hset c k).1 hk with hold | ⟨-, rfl⟩
    · exact hp.claimed c k hold
    · exact hk₀

/-- A register write keeps only the bits of `v` that exist, and only sources 1..N are pended or claimed. -/
theorem PlicMove.inBounds {cfg : Config} {p q : Plic} (hcfg : cfg.valid = true) (h : PlicMove cfg p q) (hp : p.InBounds cfg) :
    q.InBounds cfg := by
  obtain ⟨hN, hu, hs⟩ := Config.sources_of_valid hcfg
  have hclaims := fun c k hk => Or.inr (a := (p.claimedOf c).getLsbD k = true) (hp.claims h c k hk)
  cases h with
  | same => exact hp
  | update => exact hp.of_bits rfl rfl rfl (fun _ => .inl) hclaims
  | claim c =>
    obtain ⟨hprio, henabled, hthresh⟩ := Plic.claim_rest cfg p c
    exact hp.of_bits hprio henabled hthresh (fun _ h => .inl (Plic.claim_pending_bit h)) hclaims
  | complete c k =>
    obtain ⟨hprio, henabled, hthresh, hpending⟩ := Plic.complete_rest cfg p c k
    exact hp.of_bits hprio henabled hthresh (fun _ h => .inl (hpending ▸ h)) hclaims
  | raise k l hk =>
    obtain ⟨hprio, henabled, hthresh⟩ := Plic.raise_rest cfg p k l
    refine hp.of_bits hprio henabled hthresh (fun j hj => ?_) hclaims
    rw [Plic.raise_pending_bit] at hj
    split at hj
    · rename_i hjk
      rw [hjk.1]
      rcases hk with hk | rfl | rfl
      · exact .inr hk
      · exact .inr hu
      · exact .inr hs
    · exact .inl hj
  | priority k v hk =>
    refine { hp with
      prio := fun j => ?_, prioZero := ?_ }
    · show (cellGet 0#32 (cellSet 0#32 k _ p.priority) j).toNat < _
      rw [cellGet_set]
      split
      · exact lowBits_lt _ _
      · exact hp.prio j
    · exact (cellGet_set_other _ _ _ _ _ (by omega)).trans hp.prioZero
  | threshold c v =>
    refine { hp with thresh := fun j => ?_ }
    show (cellGet 0#32 (cellSet 0#32 c _ p.threshold) j).toNat < _
    rw [cellGet_set]
    split
    · exact lowBits_lt _ _
    · exact hp.thresh j
  | enable c w v =>
    refine { hp with enabled := fun j k hk => ?_ }
    replace hk : (cellGet 0#1024 (cellSet 0#1024 c _ p.enabled) j).getLsbD k = true := hk
    rw [cellGet_set] at hk
    split at hk
    · rw [getLsbD_putBitmapWord _ _ _ _ _ hN] at hk
      split at hk
      · rename_i hwk
        exact hwk.2
      · exact hp.enabled c k hk
    · exact hp.enabled j k hk

/-- Settles O6: every PLIC operation keeps the bounds of a valid configuration. -/
theorem plicFieldsStayInBounds : Obligations.PlicFieldsStayInBounds := by
  intro s t hcfg hs h
  refine (step_keeps (P := fun s => s.cfg.valid = true ∧ s.plic.InBounds s.cfg) (fun _ _ hs => hs)
    (fun s t hs he => ?_) h ⟨hcfg, hs⟩).2
  rw [he.cfg]
  exact ⟨hs.1, he.plic.inBounds hs.1 hs.2⟩

/-! ### O11: canonical arrays and byte memories -/

/-- The PLIC's arrays are in canonical form. -/
structure Plic.CellsWf (p : Plic) : Prop where
  priority : cellsWf 0#32 p.priority = true
  enabled : cellsWf 0#1024 p.enabled = true
  threshold : cellsWf 0#32 p.threshold = true
  claimed : cellsWf 0#1024 p.claimed = true
  irqOut : cellsWf false p.irqOut = true

theorem Plic.CellsWf.update {cfg : Config} {p : Plic} (h : p.CellsWf) : (p.update cfg).CellsWf :=
  { h with irqOut := cellsWf_loop _ _ _ _ h.irqOut }

theorem Plic.CellsWf.setClaimed {p : Plic} (c k : Nat) (b : Bool) (h : p.CellsWf) : (p.setClaimed c k b).CellsWf :=
  { h with claimed := cellsWf_set _ _ _ _ h.claimed }

theorem Plic.CellsWf.setPending {p : Plic} (k : Nat) (b : Bool) (h : p.CellsWf) : (p.setPending k b).CellsWf := { h with }

theorem Plic.CellsWf.raise {cfg : Config} {p : Plic} (k : Nat) (l : Bool) (h : p.CellsWf) : (p.raise cfg k l).CellsWf := by
  cases l with
  | true => exact (h.setPending k true).update
  | false => exact (loopTo_keeps Plic.CellsWf _ _ _ (h.setPending k false) fun c _ h => h.setClaimed c k false).update

theorem PlicMove.cellsWf {cfg : Config} {p q : Plic} (h : PlicMove cfg p q) (hp : p.CellsWf) : q.CellsWf := by
  cases h with
  | same => exact hp
  | update => exact hp.update
  | priority => exact Plic.CellsWf.update { hp with priority := cellsWf_set _ _ _ _ hp.priority }
  | enable => exact Plic.CellsWf.update { hp with enabled := cellsWf_set _ _ _ _ hp.enabled }
  | threshold => exact Plic.CellsWf.update { hp with threshold := cellsWf_set _ _ _ _ hp.threshold }
  | raise k l => exact hp.raise k l
  | claim c =>
    unfold Plic.claim
    split
    · exact hp
    · exact ((hp.setClaimed _ _ _).setPending _ _).update
  | complete c k =>
    unfold Plic.complete
    split
    · exact (hp.setClaimed _ _ _).update
    · exact hp

/-- The CLINT's arrays are in canonical form. -/
structure Clint.CellsWf (cfg : Config) (c : Clint) : Prop where
  mtimecmp : cellsWf cfg.clintMtimecmpInit c.mtimecmp = true
  msip : cellsWf false c.msip = true
  msipOut : cellsWf false c.msipOut = true
  mtipOut : cellsWf false c.mtipOut = true

theorem Clint.CellsWf.sync {cfg : Config} {c : Clint} (hart : Nat) (h : c.CellsWf cfg) : (c.sync cfg hart).CellsWf cfg :=
  { h with msipOut := cellsWf_set _ _ _ _ h.msipOut, mtipOut := cellsWf_set _ _ _ _ h.mtipOut }

theorem Clint.CellsWf.syncAll {cfg : Config} {c : Clint} (h : c.CellsWf cfg) : (c.syncAll cfg).CellsWf cfg :=
  loopTo_keeps (Clint.CellsWf cfg) _ _ _ h fun hart _ h => h.sync hart

theorem ClintMove.cellsWf {cfg : Config} {c e : Clint} (h : ClintMove cfg c e) (hc : c.CellsWf cfg) : e.CellsWf cfg := by
  cases h with
  | same => exact hc
  | msip => exact Clint.CellsWf.sync _ { hc with msip := cellsWf_set _ _ _ _ hc.msip }
  | cmp => exact Clint.CellsWf.sync _ { hc with mtimecmp := cellsWf_set _ _ _ _ hc.mtimecmp }
  | cmpRefresh => exact Clint.CellsWf.syncAll { hc with mtimecmp := cellsWf_set _ _ _ _ hc.mtimecmp }
  | refresh | time => exact Clint.CellsWf.syncAll { hc with }

/-- The SD image and the transfer buffer are in canonical form. -/
def Sdhc.BytesWf (d : Sdhc) : Prop := Memory.wf d.image = true ∧ Memory.wf d.buf = true

theorem Sdhc.BytesWf.fillBuffer {d : Sdhc} (h : d.BytesWf) : d.fillBuffer.BytesWf := ⟨h.1, copyBytes_wf _ _ _ _ _ h.2⟩

theorem Sdhc.BytesWf.writeBack {d : Sdhc} (h : d.BytesWf) : d.writeBack.BytesWf := ⟨copyBytes_wf _ _ _ _ _ h.1, h.2⟩

theorem Sdhc.BytesWf.putBufferWord {d : Sdhc} (v : Word) (h : d.BytesWf) : (d.putBufferWord v).BytesWf :=
  ⟨h.1, loopTo_keeps (fun m => Memory.wf m = true) _ _ _ h.2 fun _ _ hm => writeByte_wf _ _ _ hm⟩

theorem Sdhc.BytesWf.putRegByte {d : Sdhc} (r : SdhcReg) (i : Nat) (b : Byte) (h : d.BytesWf) : (d.putRegByte r i b).BytesWf := by
  cases r <;> exact h

theorem Sdhc.BytesWf.armRead {d : Sdhc} (h : d.BytesWf) : d.armRead.BytesWf := h

theorem Sdhc.BytesWf.armWrite {d : Sdhc} (h : d.BytesWf) : d.armWrite.BytesWf := h

theorem Sdhc.BytesWf.setPos {d : Sdhc} (pos : DWord) (h : d.BytesWf) : ({ d with pos := pos } : Sdhc).BytesWf := h

@[simp] theorem Sdhc.putPrsnt_buf (k : Nat) (b : Bool) (d : Sdhc) : (d.putPrsnt k b).buf = d.buf := rfl
@[simp] theorem Sdhc.putNists_buf (k : Nat) (b : Bool) (d : Sdhc) : (d.putNists k b).buf = d.buf := rfl
@[simp] theorem Sdhc.resetCommand_buf (d : Sdhc) : d.resetCommand.buf = d.buf := rfl
@[simp] theorem Sdhc.resetAll_buf (cfg : Config) (d : Sdhc) : (d.resetAll cfg).buf = d.buf := rfl
@[simp] theorem Sdhc.resetData_buf (d : Sdhc) : d.resetData.buf = d.buf := by simp [Sdhc.resetData]

@[simp] theorem Sdhc.softReset_buf (cfg : Config) (d : Sdhc) : (d.softReset cfg).buf = d.buf := by
  unfold Sdhc.softReset
  dsimp only
  split
  · simp
  · split <;> split <;> simp

theorem Sdhc.BytesWf.softReset {cfg : Config} {d : Sdhc} (h : d.BytesWf) : (d.softReset cfg).BytesWf := by
  simpa [Sdhc.BytesWf] using h

theorem Sdhc.BytesWf.closeBlock {d : Sdhc} (h : d.BytesWf) : d.closeBlock.BytesWf := by
  unfold Sdhc.closeBlock
  dsimp only
  split <;> split <;> exact h

theorem Sdhc.BytesWf.advance {d : Sdhc} (h : d.BytesWf) : d.advance.BytesWf := by
  unfold Sdhc.advance
  dsimp only
  split
  · exact (h.setPos _).fillBuffer.armRead
  · exact (h.setPos _).armWrite

theorem SdhcMove.bytesWf {cfg : Config} {d e : Sdhc} (h : SdhcMove cfg d e) (hd : d.BytesWf) : e.BytesWf := by
  induction h with
  | same => exact hd
  | byte r i b _ ih => exact ih.putRegByte r i b
  | reset _ ih => exact ih.softReset
  | complete _ ih => unfold Sdhc.commandComplete; split <;> exact ih
  | transferComplete _ ih => unfold Sdhc.transferComplete; split <;> exact ih
  | startRead _ _ _ ih => exact ih.fillBuffer
  | seek _ _ ih | startWrite _ _ _ ih | word _ _ ih | line _ _ ih => exact ih
  | store v _ _ ih => exact ih.putBufferWord v
  | writeBack _ _ ih => exact ih.writeBack
  | @closeIdle e k _ ih => exact Sdhc.BytesWf.closeBlock (d := { e with cursor := k }) ih
  | @closeAdvance e k _ _ _ ih => exact (Sdhc.BytesWf.closeBlock (d := { e with cursor := k }) ih).advance

theorem BusMove.cellsWf {s t : State} (h : BusMove s t) (hs : cellsWf [] s.bus = true) : cellsWf [] t.bus = true := by
  rcases h with h | ⟨on, base, d, -, -, -, -, h⟩
  · rw [h]; exact hs
  · rw [h]; exact cellsWf_set _ _ _ _ hs

theorem Effect.canonical {s t : State} (h : Effect s t) (hs : s.Canonical) : t.Canonical := by
  have hplic := h.plic.cellsWf ⟨hs.priority, hs.enabled, hs.threshold, hs.claimed, hs.irqOut⟩
  have hclint := h.clint.cellsWf ⟨hs.mtimecmp, hs.msip, hs.msipOut, hs.mtipOut⟩
  obtain ⟨himage, hbuf⟩ := h.sdhc.bytesWf ⟨hs.image, hs.buf⟩
  exact {
    priority := hplic.priority, enabled := hplic.enabled, threshold := hplic.threshold, claimed := hplic.claimed
    irqOut := hplic.irqOut, mtimecmp := h.cfg ▸ hclint.mtimecmp, msip := hclint.msip, msipOut := hclint.msipOut
    mtipOut := hclint.mtipOut, bus := h.bus.cellsWf hs.bus, image := himage, buf := hbuf }

/-- Settles O11: every write of an array or a byte memory is one that keeps the canonical form, and no transaction writes `cfg`. -/
theorem memoryStaysCanonical : Obligations.MemoryStaysCanonical := by
  intro s t hs h
  refine ⟨step_keeps (fun _ _ hs => { hs with }) (fun _ _ hs he => he.canonical hs) h hs, ?_⟩
  exact step_keeps (P := fun u => u.cfg = s.cfg) (fun _ _ hu => hu) (fun _ _ hu he => he.cfg.trans hu) h rfl

/-! ### O9: the bits no transaction changes (10_state.md R35 to R62, R72, R74) -/

/-- A masked register with one bit put. -/
theorem putBit_and {w : Nat} (v m : BitVec w) (k : Nat) (b : Bool) :
    putBit v k b &&& m = putBit (v &&& m) k (b && m.getLsbD k) := by
  apply BitVec.eq_of_getLsbD_eq
  intro i _
  rw [BitVec.getLsbD_and, getLsbD_putBit, getLsbD_putBit, BitVec.getLsbD_and]
  split
  · rename_i hi
    rw [hi.1]
  · rfl

/-- Everything `Sdhc.Fixed` says but that `SWRST` is clear, which holds only once a store is over (43_sdhc.md R282). -/
def Sdhc.FixedButReset (cfg : Config) (d : Sdhc) : Prop :=
  d.mounted = cfg.sdhcMounted ∧ d.capacity = cfg.sdhcCapacity ∧
  ((d.resp0 = 0#32 ∧ d.resp1 = 0#32 ∧ d.resp2 = 0#32 ∧ d.resp3 = 0#32) ∧
    d.caps = cfg.sdhcCaps ∧ d.maxcur = cfg.sdhcMaxcur ∧ d.version = cfg.sdhcVersion) ∧
  d.xfermode.getLsbD 0 = false ∧ d.prsnt &&& ~~~0x00000F00#32 = 0x00090000#32 ∧
  d.nists &&& ~~~0x0033#16 = 0#16 ∧ d.eists = 0#16

theorem Sdhc.fixed_iff {cfg : Config} {d : Sdhc} : d.Fixed cfg ↔ d.FixedButReset cfg ∧ d.swrst = 0#8 := by
  constructor
  · intro h
    exact ⟨⟨h.mounted, h.capacity, ⟨h.resp, h.caps, h.maxcur, h.version⟩, h.dma, h.prsnt, h.nists, h.eists⟩, h.swrst⟩
  · rintro ⟨⟨hmounted, hcapacity, ⟨hresp, hcaps, hmaxcur, hversion⟩, hdma, hprsnt, hnists, heists⟩, hswrst⟩
    exact ⟨hmounted, hcapacity, hdma, hresp, hprsnt, hswrst, hnists, heists, hcaps, hmaxcur, hversion⟩

section FixedButReset

variable {cfg : Config} {d : Sdhc} (h : d.FixedButReset cfg)
include h

theorem Sdhc.FixedButReset.setTransfer (image buf : List Host.Cell) (pos : DWord) (cursor : Nat) (xfer : Xfer) (blkcnt : Half)
    (line : Bool) :
    ({ d with image := image, buf := buf, pos := pos, cursor := cursor, xfer := xfer, blkcnt := blkcnt, line := line }
      : Sdhc).FixedButReset cfg := h

theorem Sdhc.FixedButReset.putPrsnt (k : Nat) (b : Bool)
    (hk : putBit 0x00090000#32 k (b && (~~~0x00000F00#32).getLsbD k) = 0x00090000#32) : (d.putPrsnt k b).FixedButReset cfg := by
  obtain ⟨hmounted, hcapacity, hregs, hdma, hprsnt, hrest⟩ := h
  exact ⟨hmounted, hcapacity, hregs, hdma, by rw [Sdhc.putPrsnt, putBit_and, hprsnt, hk], hrest⟩

theorem Sdhc.FixedButReset.putNists (k : Nat) (b : Bool) (hk : putBit 0#16 k (b && (~~~0x0033#16).getLsbD k) = 0#16) :
    (d.putNists k b).FixedButReset cfg := by
  obtain ⟨hmounted, hcapacity, hregs, hdma, hprsnt, hnists, heists⟩ := h
  exact ⟨hmounted, hcapacity, hregs, hdma, hprsnt, by rw [Sdhc.putNists, putBit_and, hnists, hk], heists⟩

/-- The write rules: the DMA bit is masked, the status bits can only be cleared, the read-only registers ignore writes. -/
theorem Sdhc.FixedButReset.putRegByte (r : SdhcReg) (i : Nat) (b : Byte) : (d.putRegByte r i b).FixedButReset cfg := by
  obtain ⟨hmounted, hcapacity, hregs, hdma, hprsnt, hnists, heists⟩ := id h
  cases r with
  | xfermode =>
    exact ⟨hmounted, hcapacity, hregs, (getLsbD_putBit _ _ _ _).trans (if_pos ⟨rfl, by decide⟩), hprsnt, hnists, heists⟩
  | nists =>
    refine ⟨hmounted, hcapacity, hregs, hdma, hprsnt, ?_, heists⟩
    show d.nists &&& _ &&& _ = _
    rw [BitVec.and_assoc, BitVec.and_comm _ (~~~0x0033#16), ← BitVec.and_assoc, hnists, BitVec.zero_and]
  | eists =>
    refine ⟨hmounted, hcapacity, hregs, hdma, hprsnt, hnists, ?_⟩
    show d.eists &&& _ = _
    rw [heists, BitVec.zero_and]
  | _ => exact h

theorem Sdhc.FixedButReset.armRead : d.armRead.FixedButReset cfg := (h.putPrsnt _ _ (by decide)).putNists _ _ (by decide)

theorem Sdhc.FixedButReset.armWrite : d.armWrite.FixedButReset cfg := (h.putPrsnt _ _ (by decide)).putNists _ _ (by decide)

theorem Sdhc.FixedButReset.idle : d.idle.FixedButReset cfg :=
  ((h.putPrsnt _ _ (by decide)).putPrsnt _ _ (by decide)).setTransfer _ _ _ _ _ _ _

theorem Sdhc.FixedButReset.startRead : d.startRead.FixedButReset cfg :=
  ((h.setTransfer _ _ _ _ _ _ _).putPrsnt _ _ (by decide)).armRead

theorem Sdhc.FixedButReset.startWrite : d.startWrite.FixedButReset cfg :=
  ((h.setTransfer _ _ _ _ _ _ _).putPrsnt _ _ (by decide)).armWrite

theorem Sdhc.FixedButReset.commandComplete : d.commandComplete.FixedButReset cfg := by
  unfold Sdhc.commandComplete
  split
  · exact h.putNists _ _ (by decide)
  · exact h

theorem Sdhc.FixedButReset.transferComplete : d.transferComplete.FixedButReset cfg := by
  unfold Sdhc.transferComplete
  split
  · exact h.putNists _ _ (by decide)
  · exact h

theorem Sdhc.FixedButReset.resetCommand : d.resetCommand.FixedButReset cfg :=
  (h.putPrsnt _ _ (by decide)).putNists _ _ (by decide)

theorem Sdhc.FixedButReset.resetData : d.resetData.FixedButReset cfg := by
  have hprsnt := ((((h.putPrsnt prsntWTA false (by decide)).putPrsnt prsntRTA false (by decide)).putPrsnt prsntBWE false
    (by decide)).putPrsnt prsntBRE false (by decide)).putPrsnt prsntDATINH false (by decide)
  have hnists := ((((hprsnt.putNists nistsTC false (by decide)).putNists nistsBGE false (by decide)).putNists nistsDMAINT false
    (by decide)).putNists nistsBWR false (by decide)).putNists nistsBRR false (by decide)
  exact hnists.setTransfer _ _ _ _ _ _ _

/-- `reset_all()` gives the fixed bits their construction values. -/
theorem Sdhc.FixedButReset.resetAll : (d.resetAll cfg).FixedButReset cfg := by
  obtain ⟨hmounted, hcapacity, -⟩ := h
  exact ⟨hmounted, hcapacity, ⟨⟨rfl, rfl, rfl, rfl⟩, rfl, rfl, rfl⟩, (by decide : (0#16).getLsbD 0 = false),
    (by decide : 0x00090000#32 &&& ~~~0x00000F00#32 = 0x00090000#32), (by decide : 0#16 &&& ~~~0x0033#16 = 0#16), rfl⟩

theorem Sdhc.FixedButReset.softReset : (d.softReset cfg).FixedButReset cfg := by
  have hclear {e : Sdhc} (he : e.FixedButReset cfg) : ({ e with swrst := 0#8 } : Sdhc).FixedButReset cfg := he
  unfold Sdhc.softReset
  dsimp only
  split
  · exact hclear h.resetAll
  · split <;> split
    · exact hclear h.resetCommand.resetData
    · exact hclear h.resetData
    · exact hclear h.resetCommand
    · exact hclear h

theorem Sdhc.FixedButReset.closeBlock : d.closeBlock.FixedButReset cfg := by
  have hcount {e : Sdhc} (he : e.FixedButReset cfg) :
      (if e.xfermode.getLsbD xfermodeBCE then { e with blkcnt := e.blkcnt - 1#16 } else e).FixedButReset cfg := by
    split
    · exact he.setTransfer _ _ _ _ _ _ _
    · exact he
  have hcursor : ({ d with cursor := 0 } : Sdhc).FixedButReset cfg := h
  unfold Sdhc.closeBlock
  refine hcount ?_
  split
  · exact (hcursor.putPrsnt _ _ (by decide)).putNists _ _ (by decide)
  · exact (hcursor.putPrsnt _ _ (by decide)).putNists _ _ (by decide)

theorem Sdhc.FixedButReset.advance : d.advance.FixedButReset cfg := by
  unfold Sdhc.advance
  dsimp only
  split
  · exact (h.setTransfer _ _ _ _ _ _ _).armRead
  · exact (h.setTransfer _ _ _ _ _ _ _).armWrite

end FixedButReset

theorem SdhcMove.fixedButReset {cfg : Config} {d e : Sdhc} (h : SdhcMove cfg d e) (hd : d.FixedButReset cfg) :
    e.FixedButReset cfg := by
  induction h with
  | same => exact hd
  | byte r i b _ ih => exact ih.putRegByte r i b
  | reset _ ih => exact ih.softReset
  | complete _ ih => exact ih.commandComplete
  | startRead _ _ _ ih => exact ih.startRead
  | startWrite _ _ _ ih => exact ih.startWrite
  | seek _ _ ih | word _ _ ih | line _ _ ih | store _ _ _ ih | writeBack _ _ ih => exact ih.setTransfer _ _ _ _ _ _ _
  | closeIdle k _ ih => exact (ih.setTransfer _ _ _ k _ _ _).closeBlock.idle
  | transferComplete _ ih => exact ih.transferComplete
  | closeAdvance k _ _ _ ih => exact (ih.setTransfer _ _ _ k _ _ _).closeBlock.advance

theorem Effect.sdhcFixed {s t : State} (h : Effect s t) (hs : s.sdhc.Fixed s.cfg) : t.sdhc.Fixed t.cfg := by
  obtain ⟨hfixed, hswrst⟩ := Sdhc.fixed_iff.1 hs
  rw [h.cfg]
  exact Sdhc.fixed_iff.2 ⟨h.sdhc.fixedButReset hfixed, h.side.swrst hswrst⟩

theorem UartMove.fixed {u w : Uart} (h : UartMove u w) (hu : u.Fixed) : w.Fixed := by
  induction h with
  | same => exact hu
  | ier b _ ih => exact ⟨by rw [BitVec.and_assoc]; exact BitVec.and_zero, ih.fcr⟩
  | fcr b _ ih => exact ⟨ih.ier, by rw [BitVec.and_assoc]; exact BitVec.and_zero⟩
  | _ => rename_i ih; exact ⟨ih.ier, ih.fcr⟩

theorem SdhcSide.lineCurrent {d e : Sdhc} (h : SdhcSide d e) (hd : d.LineCurrent) : e.LineCurrent := by
  rcases h.line with rfl | he
  · exact hd
  · exact he

/-- Settles O9: every SDHC and UART operation keeps the fixed bits, and every change of the SDHC ends in `recompute_line()`. -/
theorem fixedBitsAndSdhcLineAreKept : Obligations.FixedBitsAndSdhcLineAreKept := by
  intro s t h
  exact ⟨step_keeps (P := fun s => s.sdhc.Fixed s.cfg) (fun _ _ hs => hs) (fun _ _ hs he => he.sdhcFixed hs) h,
    step_keeps (P := fun s => s.uart.Fixed) (fun _ _ hs => hs) (fun _ _ hs he => he.uart.fixed hs) h,
    step_keeps (P := fun s => s.sdhc.LineCurrent) (fun _ _ hs => hs) (fun _ _ hs he => he.side.lineCurrent hs) h⟩

/-! ### O10: ordered, disjoint and read-only maps (10_state.md R22) -/

theorem mem_insertMapping {m x : Mapping} {map : List Mapping} : x ∈ insertMapping m map ↔ x = m ∨ x ∈ map := by
  induction map with
  | nil => simp [insertMapping]
  | cons e rest ih =>
    unfold insertMapping
    split
    · simp
    · simp [ih]
      tauto

/-- A range that meets none of an ordered map keeps its order. -/
theorem MapOk.insert {m : Mapping} {map : List Mapping} (hmap : MapOk map) (hsize : m.size ≠ 0)
    (hend : m.base.toNat + m.size ≤ 2 ^ 64)
    (hapart : ∀ e ∈ map, rangesMeet m.base.toNat m.size e.base.toNat e.size = false) : MapOk (insertMapping m map) := by
  obtain ⟨hbelow, hranges⟩ := hmap
  refine ⟨?_, fun x hx => ?_⟩
  · induction map with
    | nil => exact List.pairwise_singleton _ _
    | cons e rest ih =>
      obtain ⟨he, hrest⟩ := List.pairwise_cons.1 hbelow
      have hme := hapart e List.mem_cons_self
      simp only [rangesMeet, decide_eq_false_iff_not] at hme
      have hesize := (hranges e List.mem_cons_self).1
      unfold insertMapping
      split
      · have hlow : m.below e := by unfold Mapping.below; omega
        refine List.pairwise_cons.2 ⟨fun x hx => ?_, hbelow⟩
        rcases List.mem_cons.1 hx with rfl | hx
        · exact hlow
        · have hex := he x hx
          unfold Mapping.below at hlow hex ⊢
          omega
      · refine List.pairwise_cons.2 ⟨fun x hx => ?_, ih
          (fun x hx => hapart x (List.mem_cons_of_mem _ hx)) hrest (fun x hx => hranges x (List.mem_cons_of_mem _ hx))⟩
        rcases mem_insertMapping.1 hx with rfl | hx
        · unfold Mapping.below; omega
        · exact he x hx
  · rcases mem_insertMapping.1 hx with rfl | hx
    · exact ⟨hsize, hend⟩
    · exact hranges x hx

theorem BusMove.busOk {s t : State} (h : BusMove s t) (hs : s.BusOk) : t.BusOk := by
  intro b
  rcases h with h | ⟨on, base, d, -, hsize, hend, hapart, h⟩
  · rw [State.devmap, h]
    exact hs b
  · rw [State.devmap, h, cellGet_set]
    split
    · exact (hs on).insert hsize hend (by simpa using hapart)
    · exact hs b

theorem BusMove.eq_of_started {s t : State} (h : BusMove s t) (hs : s.started = true) : t.bus = s.bus := by
  rcases h with h | ⟨-, -, -, hnot, -⟩
  · exact h
  · rw [hs] at hnot; cases hnot

/-- Settles O10: only `add_device` writes a map, before the start, with a range that meets none. -/
theorem busMapStaysInOrder : Obligations.BusMapStaysInOrder := by
  intro s t h
  refine ⟨step_keeps (P := State.BusOk) (fun _ _ hs => hs) (fun _ _ hs he => he.bus.busOk hs) h, fun hs => ?_⟩
  exact step_keeps (P := fun u => u.bus = s.bus ∧ u.started = true) (fun _ _ hu => hu)
    (fun _ _ hu he => ⟨(he.bus.eq_of_started hu.2).trans hu.1, he.started hu.2⟩) h ⟨rfl, hs⟩

/-! ### O17: how a claim ends (10_state.md R27)

Each row of opcode_table.json, made directly or reached through the Bus, keeps the claims, or completes one, or tells the PLIC a
device's new line. -/

/-- No claim ends between `p` and `q`. -/
def Plic.KeepsClaims (p q : Plic) : Prop := ∀ c k, (p.claimedOf c).getLsbD k = true → (q.claimedOf c).getLsbD k = true

theorem Plic.KeepsClaims.of_eq {p q : Plic} (h : q = p) : p.KeepsClaims q := fun _ _ hk => h ▸ hk

theorem Plic.keepsClaims_claim (cfg : Config) (p : Plic) (c : Nat) : p.KeepsClaims (p.claim cfg c) :=
  fun _ _ hk => (Plic.claim_claimed_bit _ _ _ _ _).2 (.inl hk)

/-- The PLIC of `t` is that of `s`, or has been told that the line of source `k` went from `old` to `new`. -/
def Plic.Told (cfg : Config) (k : Nat) (old new : Bool) (p q : Plic) : Prop := q = p ∨ q = p.signalled cfg k old new

/-- A device ends a claim only on its own source, when its line falls (43_sdhc.md R285, 44_uart.md R350). -/
theorem Plic.Told.line_falls {cfg : Config} {k j c : Nat} {old new : Bool} {p q : Plic} (h : Plic.Told cfg k old new p q)
    (h0 : (p.claimedOf c).getLsbD j = true) (h1 : (q.claimedOf c).getLsbD j = false) : j = k ∧ old = true ∧ new = false := by
  rcases h with rfl | rfl
  · rw [h0] at h1; cases h1
  · unfold Plic.signalled at h1
    split at h1
    · rename_i hcall
      rw [Plic.raise_claimed_bit, h0] at h1
      have hfall : new = false ∧ c < cfg.plicNumContexts ∧ j = k := by simpa using h1
      obtain ⟨rfl, -, rfl⟩ := hfall
      simpa using hcall
    · rw [h0] at h1; cases h1

/-- What the UART tells the PLIC between `s` and `t`. -/
def UartTold (s t : State) : Prop := Plic.Told s.cfg s.cfg.uartIrq s.uart.line t.uart.line s.plic t.plic

/-- What the SDHC tells the PLIC between `s` and `t`. -/
def SdhcTold (s t : State) : Prop := Plic.Told s.cfg s.cfg.sdhcIrq s.sdhc.line t.sdhc.line s.plic t.plic

/-! #### Answers that leave the PLIC alone -/

theorem holeLoad_plic {p : HolePolicy} {n : Nat} {s t : State} (h : holeLoad p n s = .next t) : t.plic = s.plic := by
  rcases holeLoad_next h with ⟨-, rfl⟩ | ⟨-, rfl⟩ <;> rfl

theorem holeStore_plic {p : HolePolicy} {s t : State} (h : holeStore p s = .next t) : t.plic = s.plic := by
  rcases holeStore_next h with ⟨-, rfl⟩ | ⟨-, rfl⟩ <;> rfl

theorem inRange_plic {size off n : Nat} {s t : State} {r : Result} (h : inRange size off n s r = .next t) :
    t.plic = s.plic ∨ r = .next t := by
  rcases inRange_next h with ⟨-, h⟩ | ⟨-, rfl⟩
  · exact .inr h
  · exact .inl rfl

/-! #### PLIC rows -/

theorem plicLoadRow_keepsClaims {slot : PlicSlot} {i : Instr} {s t : State} (hrow : plicLoadRow slot = some i)
    (h : exec i s = .next t) : s.plic.KeepsClaims t.plic := by
  cases slot <;> cases hrow
  case priority k =>
    rcases inRange_plic h with h | h
    · exact .of_eq h
    · split at h
      · exact .of_eq (okLoad_next.1 h ▸ rfl)
      · split at h
        · exact .of_eq (okLoad_next.1 h ▸ rfl)
        · exact .of_eq (holeLoad_plic h)
  case claim c =>
    rcases inRange_plic h with h | h
    · exact .of_eq h
    · split at h
      · exact .of_eq (holeLoad_plic h)
      · rw [okLoad_next.1 h]
        exact Plic.keepsClaims_claim _ _ _
  case pending | enable | threshold =>
    rcases inRange_plic h with h | h
    · exact .of_eq h
    · split at h
      · exact .of_eq (holeLoad_plic h)
      · exact .of_eq (okLoad_next.1 h ▸ rfl)

/-- Of the PLIC's store rows only `complete` can end a claim. -/
theorem plicStoreRow_claims {slot : PlicSlot} {v : Word} {i : Instr} {s t : State} (hrow : plicStoreRow v slot = some i)
    (h : exec i s = .next t) :
    s.plic.KeepsClaims t.plic ∨ ∃ c, slot = .claim c ∧ t.plic = s.plic.complete s.cfg c v.toNat := by
  cases slot <;> cases hrow
  case priority k =>
    rcases inRange_plic h with h | h
    · exact .inl (.of_eq h)
    · split at h
      · exact .inl (.of_eq (okStore_next.1 h ▸ rfl))
      · split at h
        · rw [okStore_next.1 h]
          exact .inl fun _ _ hk => hk
        · exact .inl (.of_eq (holeStore_plic h))
  case claim c =>
    rcases inRange_plic h with h | h
    · exact .inl (.of_eq h)
    · split at h
      · exact .inl (.of_eq (holeStore_plic h))
      · rw [okStore_next.1 h]
        exact .inr ⟨c, rfl, rfl⟩
  case pending | enable | threshold =>
    rcases inRange_plic h with h | h
    · exact .inl (.of_eq h)
    · split at h
      · exact .inl (.of_eq (holeStore_plic h))
      · rw [okStore_next.1 h]
        exact .inl fun _ _ hk => hk

/-- A Bus load the PLIC answers is a hole or one of its rows. -/
theorem plicLoad_keepsClaims {off n : Nat} {s t : State} (h : plicLoad off n s = .next t) : s.plic.KeepsClaims t.plic := by
  unfold plicLoad at h
  split at h
  · split at h
    · exact plicLoadRow_keepsClaims (slot := .priority _) rfl h
    · exact plicLoadRow_keepsClaims (slot := .pending _) rfl h
    · exact plicLoadRow_keepsClaims (slot := .enable _ _) rfl h
    · exact plicLoadRow_keepsClaims (slot := .threshold _) rfl h
    · exact plicLoadRow_keepsClaims (slot := .claim _) rfl h
    · exact .of_eq (holeLoad_plic h)
  · cases h

/-- The one offset of a context's claim register (30_encoding.md R134). -/
theorem offset_of_plicSlot_claim {off c : Nat} (h4 : off % 4 = 0) (h : plicSlot off = .claim c) :
    off = (PlicSlot.claim c).offset := by
  unfold plicSlot at h
  split_ifs at h
  obtain rfl := PlicSlot.claim.inj h
  simp only [PlicSlot.offset]
  omega

/-- A Bus store the PLIC answers is a hole or one of its rows. -/
theorem plicStore_claims {off n : Nat} {v : DWord} {s t : State} (h : plicStore off n v s = .next t) :
    plicShapeOk off n = true ∧
    (s.plic.KeepsClaims t.plic ∨ ∃ c, plicSlot off = .claim c ∧ t.plic = s.plic.complete s.cfg c (lowHalf v).toNat) := by
  unfold plicStore at h
  split at h
  · refine ⟨‹_›, ?_⟩
    split at h
    next hslot => exact plicStoreRow_claims (i := .plicPrioritySt _ _) (by rw [hslot]; rfl) h
    next hslot => exact plicStoreRow_claims (i := .plicPendingSt _ _) (by rw [hslot]; rfl) h
    next hslot => exact plicStoreRow_claims (i := .plicEnableSt _ _ _) (by rw [hslot]; rfl) h
    next hslot => exact plicStoreRow_claims (i := .plicThresholdSt _ _) (by rw [hslot]; rfl) h
    next hslot => exact plicStoreRow_claims (i := .plicCompleteSt _ _) (by rw [hslot]; rfl) h
    next => exact .inl (.of_eq (holeStore_plic h))
  · cases h

/-! #### CLINT rows -/

theorem clintLoadRow_plic {slot : ClintSlot} {i : Instr} {s t : State} (hrow : clintLoadRow slot = some i)
    (h : exec i s = .next t) : t.plic = s.plic := by
  cases slot <;> cases hrow
  case msip | cmp64 | cmpLo | cmpHi =>
    rcases inRange_plic h with h | h
    · exact h
    · split at h
      · exact okLoad_next.1 h ▸ rfl
      · exact holeLoad_plic h
  case time64 | timeLo | timeHi =>
    rcases inRange_plic h with h | h
    · exact h
    · rw [okLoad_next.1 h]
      simp

theorem clintStoreRow_plic {slot : ClintSlot} {v : DWord} {i : Instr} {s t : State} (hrow : clintStoreRow v slot = some i)
    (h : exec i s = .next t) : t.plic = s.plic := by
  cases slot <;> cases hrow
  case msip | cmp64 | cmpLo | cmpHi =>
    rcases inRange_plic h with h | h
    · exact h
    · split at h
      · rw [okStore_next.1 h]
        simp
      · exact holeStore_plic h
  case time64 | timeLo | timeHi =>
    rcases inRange_plic h with h | h
    · exact h
    · rw [okStore_next.1 h]
      simp

theorem clintLoad_plic {off n : Nat} {s t : State} (h : clintLoad off n s = .next t) : t.plic = s.plic := by
  unfold clintLoad at h
  split at h
  · exact clintLoadRow_plic (slot := .msip _) rfl h
  · exact clintLoadRow_plic (slot := .cmp64 _) rfl h
  · exact clintLoadRow_plic (slot := .cmpLo _) rfl h
  · exact clintLoadRow_plic (slot := .cmpHi _) rfl h
  · exact clintLoadRow_plic (slot := .time64) rfl h
  · exact clintLoadRow_plic (slot := .timeLo) rfl h
  · exact clintLoadRow_plic (slot := .timeHi) rfl h
  · exact holeLoad_plic h
  · cases h

theorem clintStore_plic {off n : Nat} {v : DWord} {s t : State} (h : clintStore off n v s = .next t) : t.plic = s.plic := by
  unfold clintStore at h
  split at h
  · exact clintStoreRow_plic (slot := .msip _) (v := v) rfl h
  · exact clintStoreRow_plic (slot := .cmp64 _) (v := v) rfl h
  · exact clintStoreRow_plic (slot := .cmpLo _) (v := v) rfl h
  · exact clintStoreRow_plic (slot := .cmpHi _) (v := v) rfl h
  · exact clintStoreRow_plic (slot := .time64) (v := v) rfl h
  · exact clintStoreRow_plic (slot := .timeLo) (v := v) rfl h
  · exact clintStoreRow_plic (slot := .timeHi) (v := v) rfl h
  · exact holeStore_plic h
  · cases h

theorem execClintIncrement_plic {delta : DWord} {s t : State} (h : execClintIncrement delta s = .next t) : t.plic = s.plic := by
  rw [okStore_next.1 h]
  split <;> simp

/-! #### UART rows -/

/-- `check_int()`, after a change of UART registers other than the line. -/
theorem checkInt_told {s u : State} (hcfg : u.cfg = s.cfg) (hplic : u.plic = s.plic) (hline : u.uart.line = s.uart.line) :
    UartTold s u.checkInt := by
  refine .inr ?_
  rw [State.checkInt_plic, State.checkInt_uart, hcfg, hplic, hline]
  simp [Plic.signalled]

theorem uartLoaded_told {b : Byte} {s u t : State} (h : uartLoaded b u = .next t) (hcfg : u.cfg = s.cfg)
    (hplic : u.plic = s.plic) (hline : u.uart.line = s.uart.line) : UartTold s t :=
  okLoad_next.1 h ▸ checkInt_told hcfg hplic hline

theorem uartStored_told {s u t : State} (h : uartStored u = .next t) (hcfg : u.cfg = s.cfg)
    (hplic : u.plic = s.plic) (hline : u.uart.line = s.uart.line) : UartTold s t :=
  okStore_next.1 h ▸ checkInt_told hcfg hplic hline

theorem rbrLoad_told {s t : State} (h : rbrLoad s = .next t) : UartTold s t := by
  unfold rbrLoad at h
  split at h
  · exact uartLoaded_told h rfl rfl rfl
  · exact uartLoaded_told h rfl rfl rfl

theorem uartLoadRow_told {reg : UartReg} {i : Instr} {s t : State} (hrow : uartLoadRow reg = some i) (h : exec i s = .next t) :
    UartTold s t := by
  cases reg <;> cases hrow
  case rbr | dll =>
    rcases inRange_plic h with h | h
    · exact .inl h
    · split at h
      · exact uartLoaded_told h rfl rfl rfl
      · exact rbrLoad_told h
  case ier | dlm | lsr | psd =>
    rcases inRange_plic h with h | h
    · exact .inl h
    · split at h <;> exact uartLoaded_told h rfl rfl rfl
  case iir | lcr | mcr | msr | scr =>
    rcases inRange_plic h with h | h
    · exact .inl h
    · exact uartLoaded_told h rfl rfl rfl

theorem uartStoreRow_told {reg : UartReg} {v : Byte} {i : Instr} {s t : State} (hrow : uartStoreRow v reg = some i)
    (h : exec i s = .next t) : UartTold s t := by
  cases reg <;> cases hrow
  case thr | dll | ier | dlm | lsr | psd =>
    rcases inRange_plic h with h | h
    · exact .inl h
    · split at h <;> exact uartStored_told h rfl rfl rfl
  case fcr | lcr | mcr | msr | scr =>
    rcases inRange_plic h with h | h
    · exact .inl h
    · exact uartStored_told h rfl rfl rfl

theorem uartLoad_told {off n : Nat} {s t : State} (h : uartLoad off n s = .next t) : UartTold s t := by
  unfold uartLoad at h
  split at h
  · split at h
    · split at h
      · exact uartLoadRow_told (reg := .dll) rfl h
      · exact uartLoadRow_told (reg := .rbr) rfl h
    · split at h
      · exact uartLoadRow_told (reg := .dlm) rfl h
      · exact uartLoadRow_told (reg := .ier) rfl h
    · exact uartLoadRow_told (reg := .iir) rfl h
    · exact uartLoadRow_told (reg := .lcr) rfl h
    · exact uartLoadRow_told (reg := .mcr) rfl h
    · split at h
      · exact uartLoadRow_told (reg := .psd) rfl h
      · exact uartLoadRow_told (reg := .lsr) rfl h
    · exact uartLoadRow_told (reg := .msr) rfl h
    · exact uartLoadRow_told (reg := .scr) rfl h
    · exact .inl (holeLoad_plic h)
  · cases h

theorem uartStore_told {off n : Nat} {v : DWord} {s t : State} (h : uartStore off n v s = .next t) : UartTold s t := by
  unfold uartStore at h
  split at h
  · split at h
    · split at h
      · exact uartStoreRow_told (reg := .dll) rfl h
      · exact uartStoreRow_told (reg := .thr) rfl h
    · split at h
      · exact uartStoreRow_told (reg := .dlm) rfl h
      · exact uartStoreRow_told (reg := .ier) rfl h
    · exact uartStoreRow_told (reg := .fcr) rfl h
    · exact uartStoreRow_told (reg := .lcr) rfl h
    · exact uartStoreRow_told (reg := .mcr) rfl h
    · split at h
      · exact uartStoreRow_told (reg := .psd) rfl h
      · exact uartStoreRow_told (reg := .lsr) (v := getByte v 0) rfl h
    · exact uartStoreRow_told (reg := .msr) (v := getByte v 0) rfl h
    · exact uartStoreRow_told (reg := .scr) rfl h
    · exact .inl (holeStore_plic h)
  · cases h

/-! #### SDHC rows -/

@[simp] theorem Sdhc.putPrsnt_line (k : Nat) (b : Bool) (d : Sdhc) : (d.putPrsnt k b).line = d.line := rfl
@[simp] theorem Sdhc.putNists_line (k : Nat) (b : Bool) (d : Sdhc) : (d.putNists k b).line = d.line := rfl
@[simp] theorem Sdhc.fillBuffer_line (d : Sdhc) : d.fillBuffer.line = d.line := rfl
@[simp] theorem Sdhc.armRead_line (d : Sdhc) : d.armRead.line = d.line := rfl
@[simp] theorem Sdhc.armWrite_line (d : Sdhc) : d.armWrite.line = d.line := rfl
@[simp] theorem Sdhc.idle_line (d : Sdhc) : d.idle.line = d.line := rfl
@[simp] theorem Sdhc.writeBack_line (d : Sdhc) : d.writeBack.line = d.line := rfl
@[simp] theorem Sdhc.putBufferWord_line (v : Word) (d : Sdhc) : (d.putBufferWord v).line = d.line := rfl
@[simp] theorem Sdhc.startRead_line (d : Sdhc) : d.startRead.line = d.line := by simp [Sdhc.startRead]
@[simp] theorem Sdhc.startWrite_line (d : Sdhc) : d.startWrite.line = d.line := by simp [Sdhc.startWrite]
@[simp] theorem Sdhc.resetAll_line (cfg : Config) (d : Sdhc) : (d.resetAll cfg).line = d.line := rfl
@[simp] theorem Sdhc.resetCommand_line (d : Sdhc) : d.resetCommand.line = d.line := rfl
@[simp] theorem Sdhc.resetData_line (d : Sdhc) : d.resetData.line = d.line := by simp [Sdhc.resetData]

@[simp] theorem Sdhc.commandComplete_line (d : Sdhc) : d.commandComplete.line = d.line := by
  unfold Sdhc.commandComplete; split <;> rfl

@[simp] theorem Sdhc.transferComplete_line (d : Sdhc) : d.transferComplete.line = d.line := by
  unfold Sdhc.transferComplete; split <;> rfl

@[simp] theorem Sdhc.closeBlock_line (d : Sdhc) : d.closeBlock.line = d.line := by
  unfold Sdhc.closeBlock; dsimp only; split <;> split <;> rfl

@[simp] theorem Sdhc.advance_line (d : Sdhc) : d.advance.line = d.line := by
  unfold Sdhc.advance; dsimp only; split <;> simp

@[simp] theorem Sdhc.softReset_line (cfg : Config) (d : Sdhc) : (d.softReset cfg).line = d.line := by
  unfold Sdhc.softReset
  dsimp only
  split
  · simp
  · split <;> split <;> simp

@[simp] theorem Sdhc.putRegByte_line (d : Sdhc) (r : SdhcReg) (i : Nat) (b : Byte) : (d.putRegByte r i b).line = d.line := by
  cases r <;> rfl

@[simp] theorem Sdhc.putValueAt_line (d : Sdhc) (off n : Nat) (v : DWord) : (d.putValueAt off n v).line = d.line := by
  refine loopTo_keeps (fun e : Sdhc => e.line = d.line) _ n d rfl (fun j e he => ?_)
  show (e.putByteAt (off + j) (getByte v j)).line = d.line
  unfold Sdhc.putByteAt
  split <;> simp [he]

@[simp] theorem State.storeBytes_line (s : State) (off n : Nat) (v : DWord) : (s.storeBytes off n v).sdhc.line = s.sdhc.line := by
  unfold State.storeBytes
  dsimp only
  split <;> simp

@[simp] theorem State.endOfBlock_line (s : State) : s.endOfBlock.sdhc.line = s.sdhc.line := by
  unfold State.endOfBlock
  dsimp only
  split
  · simp
  · split <;> simp

/-- A command leaves the line to step 5 of the store (43_sdhc.md R264). -/
theorem issue_line {s t : State} {idx : Nat} (h : s.issue idx = .ok t) : t.sdhc.line = s.sdhc.line := by
  unfold State.issue at h
  dsimp only at h
  split_ifs at h <;> injection h with h <;> subst h <;> simp

theorem storeCommand_line {s t : State} {off n : Nat} (h : s.storeCommand off n = .ok t) : t.sdhc.line = s.sdhc.line := by
  unfold State.storeCommand at h
  split at h
  · exact issue_line h
  · injection h with h
    rw [h]

/-- `recompute_line()`, after a change of SDHC state other than the line. -/
theorem recomputeLine_told {s u : State} (hcfg : u.cfg = s.cfg) (hplic : u.plic = s.plic) (hline : u.sdhc.line = s.sdhc.line) :
    SdhcTold s u.recomputeLine := by
  refine .inr ?_
  rw [State.recomputeLine_plic, State.recomputeLine_sdhc, hcfg, hplic, hline]
  simp [Plic.signalled]

theorem bufdataLoad_told {s t : State} (h : bufdataLoad s = .next t) : SdhcTold s t := by
  unfold bufdataLoad at h
  split at h
  · exact .inl (okLoad_next.1 h ▸ rfl)
  · split at h
    · cases h
    · rw [okLoad_next.1 h]
      split <;> exact recomputeLine_told (by simp) (by simp) (by simp)

theorem bufdataStore_told {v : Word} {s t : State} (h : bufdataStore v s = .next t) : SdhcTold s t := by
  unfold bufdataStore at h
  split at h
  · exact .inl (okStore_next.1 h ▸ rfl)
  · split at h
    · cases h
    · rw [okStore_next.1 h]
      split <;> exact recomputeLine_told (by simp) (by simp) (by simp)

/-- An SDHC access fails before it reaches a register, or is one whose bytes in `BUFDATA`, if any, are the whole port. -/
theorem sdhcGate_plic {off n : Nat} {s t : State} {r : Result} (h : sdhcGate off n s r = .next t) :
    t.plic = s.plic ∨ ((touchesBufdata off n = true → off = 0x20 ∧ n = 4) ∧ r = .next t) := by
  rcases inRange_plic h with h | h
  · exact .inl h
  · split at h
    · exact .inl (failUnmapped_next.1 h ▸ rfl)
    · split at h
      · cases h
      · rename_i hshape
        split at h
        · exact .inl (failUnmapped_next.1 h ▸ rfl)
        · exact .inr ⟨by tauto, h⟩

theorem sdhcLoad_told {off n : Nat} {s t : State} (h : sdhcLoad off n s = .next t) : SdhcTold s t := by
  rcases sdhcGate_plic h with h | ⟨-, h⟩
  · exact .inl h
  · split at h
    · exact bufdataLoad_told h
    · exact .inl (okLoad_next.1 h ▸ rfl)

/-- Loads of registers other than `BUFDATA` recompute nothing. -/
theorem sdhcLoad_plic {off n : Nat} {s t : State} (h : sdhcLoad off n s = .next t) (hoff : ¬(off = 0x20 ∧ n = 4)) :
    t.plic = s.plic := by
  rcases sdhcGate_plic h with h | ⟨hport, h⟩
  · exact h
  · split at h
    · exact absurd (hport ‹_›) hoff
    · exact okLoad_next.1 h ▸ rfl

/-- No row of another register starts at `BUFDATA`'s offset (30_encoding.md R145). -/
theorem SdhcReg.not_port {r : SdhcReg} {i n : Nat} (hr : r ≠ .bufdata) (h : r.accessOk i n = true) :
    ¬(r.lo + i = 0x20 ∧ n = 4) := by
  rintro ⟨hoff, -⟩
  obtain ⟨hi, -⟩ := Bool.and_eq_true_iff.1 h
  have hown := sdhcOwner_lo r (of_decide_eq_true hi)
  rw [hoff] at hown
  exact hr (Prod.mk.inj (Option.some.inj hown)).1.symm

theorem sdhcStore_told {off n : Nat} {v : DWord} {s t : State} (h : sdhcStore off n v s = .next t) : SdhcTold s t := by
  rcases sdhcGate_plic h with h | ⟨-, h⟩
  · exact .inl h
  · split at h
    · exact bufdataStore_told h
    · split at h
      · cases h
      · rename_i u hu
        rw [okStore_next.1 h]
        have hside := (storeCommand_move hu).2
        exact recomputeLine_told hside.cfg hside.plic ((storeCommand_line hu).trans (by simp))

/-! #### Every transaction -/

theorem otherLoad_plic {id off n : Nat} {s t : State} (h : otherLoad id off n s = .next t) : t.plic = s.plic := by
  unfold otherLoad at h
  split at h
  · exact okLoad_next.1 h ▸ rfl
  · exact failUnmapped_next.1 h ▸ rfl
  · cases h

theorem otherStore_plic {id off n : Nat} {v : DWord} {s t : State} (h : otherStore id off n v s = .next t) :
    t.plic = s.plic := by
  unfold otherStore at h
  split at h
  · exact okStore_next.1 h ▸ rfl
  · exact failUnmapped_next.1 h ▸ rfl
  · cases h

theorem execBusAddDevice_plic {on : Nat} {base : DWord} {d : Device} {s t : State} (h : execBusAddDevice on base d s = .next t) :
    t.plic = s.plic := by
  unfold execBusAddDevice at h
  split_ifs at h
  injection h with h
  rw [← h]
  rfl

theorem execPlicIntCheck_plic {c : Nat} {s t : State} (h : execPlicIntCheck c s = .next t) : t.plic = s.plic := by
  unfold execPlicIntCheck at h
  split at h
  · cases h
  · injection h with h
    rw [← h]
    rfl

/-- The claim of context `c` on source `k` ends between `s` and `t`. -/
def ClaimEnds (c k : Nat) (s t : State) : Prop :=
  (s.plic.claimedOf c).getLsbD k = true ∧ (t.plic.claimedOf c).getLsbD k = false

theorem Plic.KeepsClaims.not_ends {c k : Nat} {s t : State} (h : s.plic.KeepsClaims t.plic) : ¬ClaimEnds c k s t := by
  rintro ⟨h0, h1⟩
  rw [h c k h0] at h1
  cases h1

theorem not_claimEnds_of_plic {c k : Nat} {s t : State} (h : t.plic = s.plic) : ¬ClaimEnds c k s t :=
  Plic.KeepsClaims.not_ends (.of_eq h)

/-- `complete(c', k')` ends no other claim. -/
theorem ClaimEnds.of_complete {c k c' k' : Nat} {s t : State} (h : ClaimEnds c k s t)
    (ht : t.plic = s.plic.complete s.cfg c' k') : c' = c ∧ k' = k := by
  obtain ⟨h0, h1⟩ := h
  have hgone := mt (Plic.complete_claimed_bit s.cfg s.plic c' k' c k).2 (by simp [← ht, h1])
  grind

/-- The transactions that can end the claim of context `c` on source `k`. -/
def EndsClaim (c k : Nat) (i : Instr) (s t : State) : Prop :=
  (∃ v, i = .plicCompleteSt c v ∧ v.toNat = k) ∨
  (∃ addr v, i = .busStore addr 4 v ∧ s.route addr 4 = some (.plic, (PlicSlot.claim c).offset) ∧ v.toNat % 2 ^ 32 = k) ∨
  i = .plicRaiseIrq k false ∨
  (k = s.cfg.uartIrq ∧ UartChecks s i ∧ s.uart.line = true ∧ t.uart.line = false) ∨
  (k = s.cfg.sdhcIrq ∧ SdhcRecomputes s i ∧ s.sdhc.line = true ∧ t.sdhc.line = false)

theorem UartTold.endsClaim {c k : Nat} {i : Instr} {s t : State} (h : UartTold s t) (hi : UartChecks s i)
    (hend : ClaimEnds c k s t) : EndsClaim c k i s t := by
  obtain ⟨hk, hold, hnew⟩ := Plic.Told.line_falls h hend.1 hend.2
  exact .inr (.inr (.inr (.inl ⟨hk, hi, hold, hnew⟩)))

theorem SdhcTold.endsClaim {c k : Nat} {i : Instr} {s t : State} (h : SdhcTold s t) (hi : SdhcRecomputes s i)
    (hend : ClaimEnds c k s t) : EndsClaim c k i s t := by
  obtain ⟨hk, hold, hnew⟩ := Plic.Told.line_falls h hend.1 hend.2
  exact .inr (.inr (.inr (.inr ⟨hk, hi, hold, hnew⟩)))

theorem busLoad_endsClaim {c k n : Nat} {addr : DWord} {s t : State} (h : exec (.busLoad addr n) s = .next t)
    (hend : ClaimEnds c k s t) : EndsClaim c k (.busLoad addr n) s t := by
  change execBusLoad addr n s = .next t at h
  unfold execBusLoad at h
  split at h
  · split at h
    next => exact absurd hend (not_claimEnds_of_plic (failUnmapped_next.1 h ▸ rfl))
    next d off hroute =>
      cases d with
      | plic => exact absurd hend (plicLoad_keepsClaims h).not_ends
      | clint => exact absurd hend (not_claimEnds_of_plic (clintLoad_plic h))
      | uart => exact (uartLoad_told h).endsClaim (.inr (.inr ⟨addr, n, off, .inl rfl, hroute⟩)) hend
      | sdhc =>
        by_cases hport : off = 0x20 ∧ n = 4
        · obtain ⟨rfl, rfl⟩ := hport
          exact (sdhcLoad_told h).endsClaim (.inr (.inr (.inr ⟨addr, rfl, hroute⟩))) hend
        · exact absurd hend (not_claimEnds_of_plic (sdhcLoad_plic h hport))
      | bus id size => exact absurd hend (not_claimEnds_of_plic (failUnmapped_next.1 h ▸ rfl))
      | other id size => exact absurd hend (not_claimEnds_of_plic (otherLoad_plic h))
  · cases h

theorem busStore_endsClaim {c k n : Nat} {addr v : DWord} {s t : State} (h : exec (.busStore addr n v) s = .next t)
    (hend : ClaimEnds c k s t) : EndsClaim c k (.busStore addr n v) s t := by
  change execBusStore addr n v s = .next t at h
  unfold execBusStore at h
  split at h
  · split at h
    next => exact absurd hend (not_claimEnds_of_plic (failUnmapped_next.1 h ▸ rfl))
    next d off hroute =>
      cases d with
      | plic =>
        obtain ⟨hshape, hkeeps | ⟨c', hslot, ht⟩⟩ := plicStore_claims h
        · exact absurd hend hkeeps.not_ends
        · obtain ⟨rfl, h4⟩ := of_decide_eq_true hshape
          obtain ⟨rfl, rfl⟩ := hend.of_complete ht
          rw [offset_of_plicSlot_claim h4 hslot] at hroute
          exact .inr (.inl ⟨addr, v, rfl, hroute, (toNat_lowHalf v).symm⟩)
      | clint => exact absurd hend (not_claimEnds_of_plic (clintStore_plic h))
      | uart => exact (uartStore_told h).endsClaim (.inr (.inr ⟨addr, n, off, .inr ⟨v, rfl⟩, hroute⟩)) hend
      | sdhc => exact (sdhcStore_told h).endsClaim (.inr (.inr (.inl ⟨addr, n, v, off, rfl, hroute⟩))) hend
      | bus id size => exact absurd hend (not_claimEnds_of_plic (failUnmapped_next.1 h ▸ rfl))
      | other id size => exact absurd hend (not_claimEnds_of_plic (otherStore_plic h))
  · cases h

theorem plicCompleteSt_endsClaim {c k c' : Nat} {v : Word} {s t : State} (h : exec (.plicCompleteSt c' v) s = .next t)
    (hend : ClaimEnds c k s t) : EndsClaim c k (.plicCompleteSt c' v) s t := by
  rcases plicStoreRow_claims (slot := .claim c') rfl h with hkeeps | ⟨c₁, hslot, ht⟩
  · exact absurd hend hkeeps.not_ends
  · obtain rfl := PlicSlot.claim.inj hslot
    obtain ⟨rfl, hk⟩ := hend.of_complete ht
    exact .inl ⟨v, rfl, hk⟩

theorem plicRaiseIrq_endsClaim {c k k' : Nat} {level : Bool} {s t : State} (h : exec (.plicRaiseIrq k' level) s = .next t)
    (hend : ClaimEnds c k s t) : EndsClaim c k (.plicRaiseIrq k' level) s t := by
  change execPlicRaiseIrq k' level s = .next t at h
  unfold execPlicRaiseIrq at h
  split at h
  · cases h
  · obtain ⟨h0, h1⟩ := hend
    rw [okStore_next.1 h, State.respond_plic, State.raiseIrq_plic, Plic.raise_claimed_bit, h0] at h1
    have hfall : level = false ∧ c < s.cfg.plicNumContexts ∧ k = k' := by simpa using h1
    obtain ⟨rfl, -, rfl⟩ := hfall
    exact .inr (.inr (.inl rfl))

/-- Settles O17: of all the rows only `complete`, `raise_irq(k, false)` and the accesses that recompute a line end a claim. -/
theorem claimEndsOnlyByCompleteOrDeassertion : Obligations.ClaimEndsOnlyByCompleteOrDeassertion := by
  intro i s t c k hwf h _ h0 h1
  have hend : ClaimEnds c k s t := ⟨h0, h1⟩
  have kept : s.plic.KeepsClaims t.plic → EndsClaim c k i s t := fun hk => absurd hend hk.not_ends
  have same : t.plic = s.plic → EndsClaim c k i s t := fun ht => absurd hend (not_claimEnds_of_plic ht)
  have uartRow : UartTold s t → UartChecks s i → EndsClaim c k i s t := fun ht hi => ht.endsClaim hi hend
  have sdhcRow : SdhcTold s t → SdhcRecomputes s i → EndsClaim c k i s t := fun ht hi => ht.endsClaim hi hend
  show EndsClaim c k i s t
  cases i with
  | busLoad addr n => exact busLoad_endsClaim h hend
  | busStore addr n v => exact busStore_endsClaim h hend
  | busAddDevice on base d => exact same (execBusAddDevice_plic h)
  | busFindDevice addr =>
    injection h with h
    exact same (h ▸ rfl)
  | plicPriorityLd k => exact kept (plicLoadRow_keepsClaims (slot := .priority k) rfl h)
  | plicPendingLd w => exact kept (plicLoadRow_keepsClaims (slot := .pending w) rfl h)
  | plicEnableLd c w => exact kept (plicLoadRow_keepsClaims (slot := .enable c w) rfl h)
  | plicThresholdLd c => exact kept (plicLoadRow_keepsClaims (slot := .threshold c) rfl h)
  | plicClaimLd c => exact kept (plicLoadRow_keepsClaims (slot := .claim c) rfl h)
  | plicPrioritySt k v => exact kept ((plicStoreRow_claims (slot := .priority k) rfl h).resolve_right (by simp))
  | plicPendingSt w v => exact kept ((plicStoreRow_claims (slot := .pending w) (v := v) rfl h).resolve_right (by simp))
  | plicEnableSt c w v => exact kept ((plicStoreRow_claims (slot := .enable c w) rfl h).resolve_right (by simp))
  | plicThresholdSt c v => exact kept ((plicStoreRow_claims (slot := .threshold c) rfl h).resolve_right (by simp))
  | plicCompleteSt c v => exact plicCompleteSt_endsClaim h hend
  | plicRaiseIrq k level => exact plicRaiseIrq_endsClaim h hend
  | plicUpdate => exact kept (okStore_next.1 h ▸ fun _ _ hk => hk)
  | plicIntCheck c => exact same (execPlicIntCheck_plic h)
  | clintMsipLd h' => exact same (clintLoadRow_plic (slot := .msip h') rfl h)
  | clintMtimecmpLd64 h' => exact same (clintLoadRow_plic (slot := .cmp64 h') rfl h)
  | clintMtimecmpLdLo h' => exact same (clintLoadRow_plic (slot := .cmpLo h') rfl h)
  | clintMtimecmpLdHi h' => exact same (clintLoadRow_plic (slot := .cmpHi h') rfl h)
  | clintMtimeLd64 => exact same (clintLoadRow_plic (slot := .time64) rfl h)
  | clintMtimeLdLo => exact same (clintLoadRow_plic (slot := .timeLo) rfl h)
  | clintMtimeLdHi => exact same (clintLoadRow_plic (slot := .timeHi) rfl h)
  | clintMsipSt h' v =>
    exact same (clintStoreRow_plic (slot := .msip h') (v := v.setWidth 64) (by simp [clintStoreRow]) h)
  | clintMtimecmpStLo h' v =>
    exact same (clintStoreRow_plic (slot := .cmpLo h') (v := v.setWidth 64) (by simp [clintStoreRow]) h)
  | clintMtimecmpStHi h' v =>
    exact same (clintStoreRow_plic (slot := .cmpHi h') (v := v.setWidth 64) (by simp [clintStoreRow]) h)
  | clintMtimecmpSt64 h' v => exact same (clintStoreRow_plic (slot := .cmp64 h') (v := v) rfl h)
  | clintMtimeSt64 v => exact same (clintStoreRow_plic (slot := .time64) (v := v) rfl h)
  | clintMtimeStLo v => exact same (clintStoreRow_plic (slot := .timeLo) (v := v.setWidth 64) (by simp [clintStoreRow]) h)
  | clintMtimeStHi v => exact same (clintStoreRow_plic (slot := .timeHi) (v := v.setWidth 64) (by simp [clintStoreRow]) h)
  | clintIncrement delta => exact same (execClintIncrement_plic h)
  | sdhcSysaddrLd j n | sdhcBlksizeLd j n | sdhcBlkcntLd j n | sdhcArgLd j n | sdhcXfermodeLd j n | sdhcCmdLd j n
  | sdhcRespLd j n | sdhcPrsntLd j n | sdhcHostctlLd j n | sdhcPwrctlLd j n | sdhcClkctlLd j n | sdhcToctlLd j n
  | sdhcSwrstLd j n | sdhcNistsLd j n | sdhcEistsLd j n | sdhcNistenLd j n | sdhcEistenLd j n | sdhcNisigenLd j n
  | sdhcEisigenLd j n | sdhcCapsLd j n | sdhcMaxcurLd j n | sdhcVersionLd j n =>
    exact same (sdhcLoad_plic h (SdhcReg.not_port (by decide) hwf))
  | sdhcSysaddrSt j n v | sdhcBlksizeSt j n v | sdhcBlkcntSt j n v | sdhcArgSt j n v | sdhcXfermodeSt j n v | sdhcCmdSt j n v
  | sdhcRespSt j n v | sdhcPrsntSt j n v | sdhcHostctlSt j n v | sdhcPwrctlSt j n v | sdhcClkctlSt j n v | sdhcToctlSt j n v
  | sdhcSwrstSt j n v | sdhcNistsSt j n v | sdhcEistsSt j n v | sdhcNistenSt j n v | sdhcEistenSt j n v | sdhcNisigenSt j n v
  | sdhcEisigenSt j n v | sdhcCapsSt j n v | sdhcMaxcurSt j n v | sdhcVersionSt j n v =>
    exact sdhcRow (sdhcStore_told h) (.inl ⟨rfl, rfl⟩)
  | sdhcBufdataLd => exact sdhcRow (sdhcLoad_told h) (.inr (.inl rfl))
  | sdhcBufdataSt v => exact sdhcRow (sdhcStore_told h) (.inl ⟨rfl, rfl⟩)
  | uartRbrLd => exact uartRow (uartLoadRow_told (reg := .rbr) rfl h) (.inl ⟨.inl rfl, rfl⟩)
  | uartDllLd => exact uartRow (uartLoadRow_told (reg := .dll) rfl h) (.inl ⟨.inl rfl, rfl⟩)
  | uartIerLd => exact uartRow (uartLoadRow_told (reg := .ier) rfl h) (.inl ⟨.inl rfl, rfl⟩)
  | uartDlmLd => exact uartRow (uartLoadRow_told (reg := .dlm) rfl h) (.inl ⟨.inl rfl, rfl⟩)
  | uartIirLd => exact uartRow (uartLoadRow_told (reg := .iir) rfl h) (.inl ⟨.inl rfl, rfl⟩)
  | uartLcrLd => exact uartRow (uartLoadRow_told (reg := .lcr) rfl h) (.inl ⟨.inl rfl, rfl⟩)
  | uartMcrLd => exact uartRow (uartLoadRow_told (reg := .mcr) rfl h) (.inl ⟨.inl rfl, rfl⟩)
  | uartLsrLd => exact uartRow (uartLoadRow_told (reg := .lsr) rfl h) (.inl ⟨.inl rfl, rfl⟩)
  | uartPsdLd => exact uartRow (uartLoadRow_told (reg := .psd) rfl h) (.inl ⟨.inl rfl, rfl⟩)
  | uartMsrLd => exact uartRow (uartLoadRow_told (reg := .msr) rfl h) (.inl ⟨.inl rfl, rfl⟩)
  | uartScrLd => exact uartRow (uartLoadRow_told (reg := .scr) rfl h) (.inl ⟨.inl rfl, rfl⟩)
  | uartThrSt v => exact uartRow (uartStoreRow_told (reg := .thr) rfl h) (.inl ⟨.inr rfl, rfl⟩)
  | uartDllSt v => exact uartRow (uartStoreRow_told (reg := .dll) rfl h) (.inl ⟨.inr rfl, rfl⟩)
  | uartIerSt v => exact uartRow (uartStoreRow_told (reg := .ier) rfl h) (.inl ⟨.inr rfl, rfl⟩)
  | uartDlmSt v => exact uartRow (uartStoreRow_told (reg := .dlm) rfl h) (.inl ⟨.inr rfl, rfl⟩)
  | uartFcrSt v => exact uartRow (uartStoreRow_told (reg := .fcr) rfl h) (.inl ⟨.inr rfl, rfl⟩)
  | uartLcrSt v => exact uartRow (uartStoreRow_told (reg := .lcr) rfl h) (.inl ⟨.inr rfl, rfl⟩)
  | uartMcrSt v => exact uartRow (uartStoreRow_told (reg := .mcr) rfl h) (.inl ⟨.inr rfl, rfl⟩)
  | uartLsrSt v => exact uartRow (uartStoreRow_told (reg := .lsr) (v := v) rfl h) (.inl ⟨.inr rfl, rfl⟩)
  | uartPsdSt v => exact uartRow (uartStoreRow_told (reg := .psd) rfl h) (.inl ⟨.inr rfl, rfl⟩)
  | uartMsrSt v => exact uartRow (uartStoreRow_told (reg := .msr) (v := v) rfl h) (.inl ⟨.inr rfl, rfl⟩)
  | uartScrSt v => exact uartRow (uartStoreRow_told (reg := .scr) rfl h) (.inl ⟨.inr rfl, rfl⟩)
  | uartPoll => exact uartRow (uartStored_told h rfl rfl rfl) (.inr (.inl rfl))
  | uartHostInput bytes => exact same (okStore_next.1 h ▸ rfl)

end Sys2Proof.Machine
end

section
/-! PROOFS. Accesses and the queue (20_memory.md): what one step runs (O4), lengths, widths and device kinds that are refused (O24, O25,
O29), and accesses that no device holds (O24, O29, O31). -/

namespace Sys2Proof.Machine

/-! ### O4: one step runs the oldest record (20_memory.md R106, R111) -/

/-- Decode and encode agree on every transaction whose operands are in range: the family `Laws.Encodable`, read together. -/
theorem decode_encode_of_wf : ∀ {i : Instr}, i.wf = true → decode (encode i) = .ok i
  | .busLoad addr n, hwf => Laws.Encodable.busLoad addr n hwf
  | .busStore addr n v, hwf => Laws.Encodable.busStore addr n v hwf
  | .busAddDevice on base d, hwf => Laws.Encodable.busAddDevice on base d hwf
  | .busFindDevice addr, hwf => Laws.Encodable.busFindDevice addr hwf
  | .plicPriorityLd k, hwf => Laws.Encodable.plicPriorityLd k hwf
  | .plicPrioritySt k v, hwf => Laws.Encodable.plicPrioritySt k v hwf
  | .plicPendingLd w, hwf => Laws.Encodable.plicPendingLd w hwf
  | .plicPendingSt w v, hwf => Laws.Encodable.plicPendingSt w v hwf
  | .plicEnableLd c w, hwf => Laws.Encodable.plicEnableLd c w hwf
  | .plicEnableSt c w v, hwf => Laws.Encodable.plicEnableSt c w v hwf
  | .plicThresholdLd c, hwf => Laws.Encodable.plicThresholdLd c hwf
  | .plicThresholdSt c v, hwf => Laws.Encodable.plicThresholdSt c v hwf
  | .plicClaimLd c, hwf => Laws.Encodable.plicClaimLd c hwf
  | .plicCompleteSt c v, hwf => Laws.Encodable.plicCompleteSt c v hwf
  | .plicRaiseIrq k level, hwf => Laws.Encodable.plicRaiseIrq k level hwf
  | .plicUpdate, hwf => Laws.Encodable.plicUpdate hwf
  | .plicIntCheck c, hwf => Laws.Encodable.plicIntCheck c hwf
  | .clintMsipLd h, hwf => Laws.Encodable.clintMsipLd h hwf
  | .clintMsipSt h v, hwf => Laws.Encodable.clintMsipSt h v hwf
  | .clintMtimecmpLd64 h, hwf => Laws.Encodable.clintMtimecmpLd64 h hwf
  | .clintMtimecmpLdLo h, hwf => Laws.Encodable.clintMtimecmpLdLo h hwf
  | .clintMtimecmpLdHi h, hwf => Laws.Encodable.clintMtimecmpLdHi h hwf
  | .clintMtimecmpSt64 h v, hwf => Laws.Encodable.clintMtimecmpSt64 h v hwf
  | .clintMtimecmpStLo h v, hwf => Laws.Encodable.clintMtimecmpStLo h v hwf
  | .clintMtimecmpStHi h v, hwf => Laws.Encodable.clintMtimecmpStHi h v hwf
  | .clintMtimeLd64, hwf => Laws.Encodable.clintMtimeLd64 hwf
  | .clintMtimeLdLo, hwf => Laws.Encodable.clintMtimeLdLo hwf
  | .clintMtimeLdHi, hwf => Laws.Encodable.clintMtimeLdHi hwf
  | .clintMtimeSt64 v, hwf => Laws.Encodable.clintMtimeSt64 v hwf
  | .clintMtimeStLo v, hwf => Laws.Encodable.clintMtimeStLo v hwf
  | .clintMtimeStHi v, hwf => Laws.Encodable.clintMtimeStHi v hwf
  | .clintIncrement delta, hwf => Laws.Encodable.clintIncrement delta hwf
  | .sdhcSysaddrLd i n, hwf => Laws.Encodable.sdhcSysaddrLd i n hwf
  | .sdhcSysaddrSt i n v, hwf => Laws.Encodable.sdhcSysaddrSt i n v hwf
  | .sdhcBlksizeLd i n, hwf => Laws.Encodable.sdhcBlksizeLd i n hwf
  | .sdhcBlksizeSt i n v, hwf => Laws.Encodable.sdhcBlksizeSt i n v hwf
  | .sdhcBlkcntLd i n, hwf => Laws.Encodable.sdhcBlkcntLd i n hwf
  | .sdhcBlkcntSt i n v, hwf => Laws.Encodable.sdhcBlkcntSt i n v hwf
  | .sdhcArgLd i n, hwf => Laws.Encodable.sdhcArgLd i n hwf
  | .sdhcArgSt i n v, hwf => Laws.Encodable.sdhcArgSt i n v hwf
  | .sdhcXfermodeLd i n, hwf => Laws.Encodable.sdhcXfermodeLd i n hwf
  | .sdhcXfermodeSt i n v, hwf => Laws.Encodable.sdhcXfermodeSt i n v hwf
  | .sdhcCmdLd i n, hwf => Laws.Encodable.sdhcCmdLd i n hwf
  | .sdhcCmdSt i n v, hwf => Laws.Encodable.sdhcCmdSt i n v hwf
  | .sdhcRespLd i n, hwf => Laws.Encodable.sdhcRespLd i n hwf
  | .sdhcRespSt i n v, hwf => Laws.Encodable.sdhcRespSt i n v hwf
  | .sdhcBufdataLd, hwf => Laws.Encodable.sdhcBufdataLd hwf
  | .sdhcBufdataSt v, hwf => Laws.Encodable.sdhcBufdataSt v hwf
  | .sdhcPrsntLd i n, hwf => Laws.Encodable.sdhcPrsntLd i n hwf
  | .sdhcPrsntSt i n v, hwf => Laws.Encodable.sdhcPrsntSt i n v hwf
  | .sdhcHostctlLd i n, hwf => Laws.Encodable.sdhcHostctlLd i n hwf
  | .sdhcHostctlSt i n v, hwf => Laws.Encodable.sdhcHostctlSt i n v hwf
  | .sdhcPwrctlLd i n, hwf => Laws.Encodable.sdhcPwrctlLd i n hwf
  | .sdhcPwrctlSt i n v, hwf => Laws.Encodable.sdhcPwrctlSt i n v hwf
  | .sdhcClkctlLd i n, hwf => Laws.Encodable.sdhcClkctlLd i n hwf
  | .sdhcClkctlSt i n v, hwf => Laws.Encodable.sdhcClkctlSt i n v hwf
  | .sdhcToctlLd i n, hwf => Laws.Encodable.sdhcToctlLd i n hwf
  | .sdhcToctlSt i n v, hwf => Laws.Encodable.sdhcToctlSt i n v hwf
  | .sdhcSwrstLd i n, hwf => Laws.Encodable.sdhcSwrstLd i n hwf
  | .sdhcSwrstSt i n v, hwf => Laws.Encodable.sdhcSwrstSt i n v hwf
  | .sdhcNistsLd i n, hwf => Laws.Encodable.sdhcNistsLd i n hwf
  | .sdhcNistsSt i n v, hwf => Laws.Encodable.sdhcNistsSt i n v hwf
  | .sdhcEistsLd i n, hwf => Laws.Encodable.sdhcEistsLd i n hwf
  | .sdhcEistsSt i n v, hwf => Laws.Encodable.sdhcEistsSt i n v hwf
  | .sdhcNistenLd i n, hwf => Laws.Encodable.sdhcNistenLd i n hwf
  | .sdhcNistenSt i n v, hwf => Laws.Encodable.sdhcNistenSt i n v hwf
  | .sdhcEistenLd i n, hwf => Laws.Encodable.sdhcEistenLd i n hwf
  | .sdhcEistenSt i n v, hwf => Laws.Encodable.sdhcEistenSt i n v hwf
  | .sdhcNisigenLd i n, hwf => Laws.Encodable.sdhcNisigenLd i n hwf
  | .sdhcNisigenSt i n v, hwf => Laws.Encodable.sdhcNisigenSt i n v hwf
  | .sdhcEisigenLd i n, hwf => Laws.Encodable.sdhcEisigenLd i n hwf
  | .sdhcEisigenSt i n v, hwf => Laws.Encodable.sdhcEisigenSt i n v hwf
  | .sdhcCapsLd i n, hwf => Laws.Encodable.sdhcCapsLd i n hwf
  | .sdhcCapsSt i n v, hwf => Laws.Encodable.sdhcCapsSt i n v hwf
  | .sdhcMaxcurLd i n, hwf => Laws.Encodable.sdhcMaxcurLd i n hwf
  | .sdhcMaxcurSt i n v, hwf => Laws.Encodable.sdhcMaxcurSt i n v hwf
  | .sdhcVersionLd i n, hwf => Laws.Encodable.sdhcVersionLd i n hwf
  | .sdhcVersionSt i n v, hwf => Laws.Encodable.sdhcVersionSt i n v hwf
  | .uartRbrLd, hwf => Laws.Encodable.uartRbrLd hwf
  | .uartThrSt v, hwf => Laws.Encodable.uartThrSt v hwf
  | .uartDllLd, hwf => Laws.Encodable.uartDllLd hwf
  | .uartDllSt v, hwf => Laws.Encodable.uartDllSt v hwf
  | .uartIerLd, hwf => Laws.Encodable.uartIerLd hwf
  | .uartIerSt v, hwf => Laws.Encodable.uartIerSt v hwf
  | .uartDlmLd, hwf => Laws.Encodable.uartDlmLd hwf
  | .uartDlmSt v, hwf => Laws.Encodable.uartDlmSt v hwf
  | .uartIirLd, hwf => Laws.Encodable.uartIirLd hwf
  | .uartFcrSt v, hwf => Laws.Encodable.uartFcrSt v hwf
  | .uartLcrLd, hwf => Laws.Encodable.uartLcrLd hwf
  | .uartLcrSt v, hwf => Laws.Encodable.uartLcrSt v hwf
  | .uartMcrLd, hwf => Laws.Encodable.uartMcrLd hwf
  | .uartMcrSt v, hwf => Laws.Encodable.uartMcrSt v hwf
  | .uartLsrLd, hwf => Laws.Encodable.uartLsrLd hwf
  | .uartLsrSt v, hwf => Laws.Encodable.uartLsrSt v hwf
  | .uartPsdLd, hwf => Laws.Encodable.uartPsdLd hwf
  | .uartPsdSt v, hwf => Laws.Encodable.uartPsdSt v hwf
  | .uartMsrLd, hwf => Laws.Encodable.uartMsrLd hwf
  | .uartMsrSt v, hwf => Laws.Encodable.uartMsrSt v hwf
  | .uartScrLd, hwf => Laws.Encodable.uartScrLd hwf
  | .uartScrSt v, hwf => Laws.Encodable.uartScrSt v hwf
  | .uartPoll, hwf => Laws.Encodable.uartPoll hwf
  | .uartHostInput bytes, hwf => Laws.Encodable.uartHostInput bytes hwf

theorem decode_of_decodeTableWord {nbits w : Nat} {i : Instr} (h : decodeTableWord nbits w = some i) :
    decode (wordRecord nbits w) = .ok i := by
  unfold decodeTableWord at h
  split at h
  next hdec => rw [hdec, Option.some.inj h]
  next => cases h

theorem step_of_no_request {s : State} (h : s.requests = []) : step s = .next s := by
  unfold step
  rw [h]

theorem step_of_decode_ok {s : State} {record : List Byte} {rest : List (List Byte)} {i : Instr}
    (hdec : decode record = .ok i) (hq : s.requests = record :: rest) : step s = exec i { s with requests := rest } := by
  unfold step
  simp only [hq, hdec]

theorem step_of_decode_error {s : State} {record : List Byte} {rest : List (List Byte)} {e : DecodeError}
    (hdec : decode record = .error e) (hq : s.requests = record :: rest) :
    step s = rejectRecord e { s with requests := rest } := by
  unfold step
  simp only [hq, hdec]

/-- Settles O4: a step decodes the record at the head of the queue and runs it, and encoded transactions and table words decode to the
transaction they name. -/
theorem stepRunsTheOldestTransaction : Obligations.StepRunsTheOldestTransaction :=
  ⟨fun _ _ _ hwf hq => step_of_decode_ok (decode_encode_of_wf hwf) hq,
    fun _ _ _ _ hdec hq => step_of_decode_ok hdec hq,
    fun _ _ _ _ hword => step_of_decode_ok (decode_of_decodeTableWord hword) rfl,
    fun _ hq => step_of_no_request hq⟩

/-! ### The failure and the routes of the Bus -/

theorem Answered.respond (r : Response) (s : State) : Answered [] r s (s.respond r) :=
  ⟨rfl, rfl, rfl, rfl, fun b _ => by cases b <;> rfl⟩

theorem failUnmapped_answered (s : State) : ∃ t, failUnmapped s = .next t ∧ Answered [] .failed s t :=
  ⟨s.respond .failed, rfl, .respond .failed s⟩

theorem lenOk_iff {n : Nat} : lenOk n = true ↔ n = 1 ∨ n = 2 ∨ n = 4 ∨ n = 8 := decide_eq_true_iff

/-- Resolution answers nothing exactly for an access past `2^64` or inside no entry (40_bus.md R162). -/
theorem resolve_eq_none_iff {map : List Mapping} {addr n : Nat} :
    resolve map addr n = none ↔
      2 ^ 64 < addr + n ∨ ∀ m ∈ map, ¬(m.base.toNat ≤ addr ∧ addr + n ≤ m.base.toNat + m.size) := by
  unfold resolve Mapping.holds
  by_cases hend : 2 ^ 64 < addr + n
  · rw [if_pos hend]
    exact iff_of_true rfl (.inl hend)
  · rw [if_neg hend, Option.map_eq_none_iff, List.find?_eq_none]
    simp only [hend, false_or, decide_eq_true_eq]

/-- What the root Bus resolves to nothing reaches no device. -/
theorem State.route_eq_none_of_resolve {s : State} {addr : DWord} {n : Nat} (h : resolve (s.devmap 0) addr.toNat n = none) :
    s.route addr n = none := by
  unfold State.route resolveDeep
  rw [h]

/-- Resolution reads the Buses' maps alone. -/
theorem resolveDeep_congr {s t : State} (h : t.bus = s.bus) (fuel b addr n : Nat) :
    resolveDeep t fuel b addr n = resolveDeep s fuel b addr n := by
  induction fuel generalizing b addr with
  | zero => rfl
  | succ fuel ih => simp only [resolveDeep, State.devmap, h, ih]

theorem State.route_congr {s t : State} (h : t.bus = s.bus) (addr : DWord) (n : Nat) : t.route addr n = s.route addr n := by
  unfold State.route
  rw [h, resolveDeep_congr h]

/-! #### The Bus accesses by length and route (40_bus.md R163, R164) -/

theorem exec_busLoad_of_badLength {n : Nat} (h : ¬lenOk n = true) (addr : DWord) (s : State) :
    exec (.busLoad addr n) s = .refused .badLength := if_neg h

theorem exec_busStore_of_badLength {n : Nat} (h : ¬lenOk n = true) (addr v : DWord) (s : State) :
    exec (.busStore addr n v) s = .refused .badLength := if_neg h

theorem exec_busLoad_of_route_none {s : State} {addr : DWord} {n : Nat} (hn : lenOk n = true) (h : s.route addr n = none) :
    exec (.busLoad addr n) s = failUnmapped s := by
  show execBusLoad addr n s = _
  unfold execBusLoad
  rw [if_pos hn, h]

theorem exec_busStore_of_route_none {s : State} {addr : DWord} {n : Nat} (hn : lenOk n = true) (h : s.route addr n = none)
    (v : DWord) : exec (.busStore addr n v) s = failUnmapped s := by
  show execBusStore addr n v s = _
  unfold execBusStore
  rw [if_pos hn, h]

theorem exec_busLoad_of_route {s : State} {addr : DWord} {n off : Nat} {d : Device} (hn : lenOk n = true)
    (h : s.route addr n = some (d, off)) : exec (.busLoad addr n) s = deviceLoad d off n s := by
  show execBusLoad addr n s = _
  unfold execBusLoad
  rw [if_pos hn, h]

theorem exec_busStore_of_route {s : State} {addr : DWord} {n off : Nat} {d : Device} (hn : lenOk n = true)
    (h : s.route addr n = some (d, off)) (v : DWord) : exec (.busStore addr n v) s = deviceStore d off n v s := by
  show execBusStore addr n v s = _
  unfold execBusStore
  rw [if_pos hn, h]

/-! ### O24: bad lengths and unmapped accesses (20_memory.md R104) -/

/-- Settles O24: the length is checked first; then an access the root map does not hold is unmapped. -/
theorem badLengthsAreRefusedAndUnmappedAccessesFail : Obligations.BadLengthsAreRefusedAndUnmappedAccessesFail := by
  intro s addr n v
  refine ⟨fun h1 h2 h4 h8 => ?_, fun hn hout => ?_⟩
  · have hbad : ¬lenOk n = true := by
      rw [lenOk_iff]
      omega
    exact ⟨exec_busLoad_of_badLength hbad addr s, exec_busStore_of_badLength hbad addr v s⟩
  · have hroute : s.route addr n = none := State.route_eq_none_of_resolve (resolve_eq_none_iff.2 hout)
    rw [exec_busLoad_of_route_none (lenOk_iff.2 hn) hroute, exec_busStore_of_route_none (lenOk_iff.2 hn) hroute]
    exact ⟨failUnmapped_answered s, failUnmapped_answered s⟩

/-! ### O25: widths and alignments (20_memory.md R105) -/

theorem plic_refuses_shape {off n : Nat} (h : ¬(n = 4 ∧ off % 4 = 0)) (v : DWord) (s : State) :
    plicLoad off n s = .refused .implDefinedWidth ∧ plicStore off n v s = .refused .implDefinedWidth := by
  have hshape : ¬plicShapeOk off n = true := mt of_decide_eq_true h
  exact ⟨if_neg hshape, if_neg hshape⟩

/-- The CLINT's map refuses every shape but an aligned 4 or 8 bytes, and 8 bytes at a present hart's `msip` (assumption log 25). -/
theorem clintSlot_eq_refuse {harts off n : Nat}
    (h : (¬(n = 4 ∧ off % 4 = 0) ∧ ¬(n = 8 ∧ off % 8 = 0)) ∨ (n = 8 ∧ off % 8 = 0 ∧ off < 0x4000 ∧ off / 4 < harts)) :
    clintSlot harts off n = .refuse := by
  unfold clintSlot
  rcases h with ⟨h4, h8⟩ | ⟨rfl, hoff, hlow, hhart⟩
  · rw [if_neg h4, if_neg h8]
  · rw [if_neg (by omega), if_pos ⟨rfl, hoff⟩, if_pos hlow, if_pos hhart]

theorem clint_refuses_slot {off n : Nat} {s : State} (h : clintSlot s.cfg.numHarts off n = .refuse) (v : DWord) :
    clintLoad off n s = .refused .implDefinedWidth ∧ clintStore off n v s = .refused .implDefinedWidth := by
  unfold clintLoad clintStore
  rw [h]
  exact ⟨rfl, rfl⟩

theorem uart_refuses_width {n : Nat} (h : n ≠ 1) (off : Nat) (v : DWord) (s : State) :
    uartLoad off n s = .refused .implDefinedWidth ∧ uartStore off n v s = .refused .implDefinedWidth :=
  ⟨if_neg h, if_neg h⟩

/-- After the range check and the mount gate, an access that touches `BUFDATA` must be the whole port. -/
theorem sdhcGate_refuses_partial_port {off n : Nat} {s : State} (hin : off + n ≤ s.cfg.sdhcSize)
    (hmounted : s.sdhc.mounted = true) (htouch : off < 0x24 ∧ 0x20 < off + n) (hport : ¬(off = 0x20 ∧ n = 4)) (r : Result) :
    sdhcGate off n s r = .refused .implDefinedWidth := by
  unfold sdhcGate inRange
  rw [if_pos hin, if_neg (by simp [hmounted]), if_pos ⟨decide_eq_true htouch, hport⟩]

/-- Settles O25: each device's width check comes before its registers. -/
theorem widthsTheDeviceDoesNotAdmitAreRefused : Obligations.WidthsTheDeviceDoesNotAdmitAreRefused := by
  intro s addr n off v hn hcases
  have hlen := lenOk_iff.2 hn
  rcases hcases with ⟨hroute, hshape⟩ | ⟨hroute, h4, h8⟩ | ⟨hroute, hmsip⟩ | ⟨hroute, hwidth⟩ |
    ⟨hroute, hin, hmounted, hlow, hhigh, hport⟩ <;>
  rw [exec_busLoad_of_route hlen hroute, exec_busStore_of_route hlen hroute]
  · exact plic_refuses_shape hshape v s
  · exact clint_refuses_slot (clintSlot_eq_refuse (.inl ⟨h4, h8⟩)) v
  · exact clint_refuses_slot (clintSlot_eq_refuse (.inr hmsip)) v
  · exact uart_refuses_width hwidth off v s
  · exact ⟨sdhcGate_refuses_partial_port hin hmounted ⟨hlow, hhigh⟩ hport _,
      sdhcGate_refuses_partial_port hin hmounted ⟨hlow, hhigh⟩ hport _⟩

/-! ### O29: atomic accesses and fetches (20_memory.md R113, R114) -/

theorem rejectRecord_atomic_of_route {s : State} {addr : DWord} {n off : Nat} {d : Device} (hn : lenOk n = true)
    (h : s.route addr n = some (d, off)) : rejectRecord (.atomic addr n) s = .refused .noAtomicMmio := by
  unfold rejectRecord
  simp only [hn, h, if_true]

theorem rejectRecord_atomic_of_route_none {s : State} {addr : DWord} {n : Nat} (hn : lenOk n = true)
    (h : s.route addr n = none) : rejectRecord (.atomic addr n) s = failUnmapped s := by
  unfold rejectRecord
  simp only [hn, h, if_true]

theorem rejectRecord_fetch_of_route {s : State} {addr : DWord} {n off : Nat} {d : Device} (hn : lenOk n = true)
    (h : s.route addr n = some (d, off)) (hd : ∀ id size, d ≠ .other id size) :
    rejectRecord (.fetch addr n) s = .refused .fetchFromDevice := by
  unfold rejectRecord
  simp only [hn, h, if_true]
  cases d with
  | other id size => exact absurd rfl (hd id size)
  | plic | clint | uart | sdhc | bus => rfl

theorem rejectRecord_fetch_of_route_none {s : State} {addr : DWord} {n : Nat} (hn : lenOk n = true)
    (h : s.route addr n = none) : rejectRecord (.fetch addr n) s = failUnmapped s := by
  unfold rejectRecord
  simp only [hn, h, if_true]

/-- Settles O29: a record that is no row reaches `rejectRecord`, which refuses it at a device and fails it elsewhere. -/
theorem atomicsAndFetchesAreNotForDevices : Obligations.AtomicsAndFetchesAreNotForDevices := by
  intro s addr n d off hn hd
  have hlen := lenOk_iff.2 hn
  have hnotOther : ∀ id size, d ≠ .other id size := by
    rcases hd with rfl | rfl | rfl | rfl <;> simp
  refine ⟨fun record hdec rest hq => ?_, fun record hdec rest hq => ?_⟩ <;>
  rw [step_of_decode_error hdec hq, State.route_congr (s := { s with requests := rest }) (t := s) rfl]
  · refine ⟨fun hroute => rejectRecord_atomic_of_route hlen hroute, fun hroute => ?_⟩
    rw [rejectRecord_atomic_of_route_none hlen hroute]
    exact failUnmapped_answered _
  · refine ⟨fun hroute => rejectRecord_fetch_of_route hlen hroute hnotOther, fun hroute => ?_⟩
    rw [rejectRecord_fetch_of_route_none hlen hroute]
    exact failUnmapped_answered _

/-! ### O31: rows outside their device (20_memory.md R101, assumption log 15) -/

theorem inRange_answered_of_outside {size off n : Nat} (h : size < off + n) (s : State) (r : Result) :
    ∃ t, inRange size off n s r = .next t ∧ Answered [] .failed s t := by
  unfold inRange
  rw [if_neg (by omega)]
  exact failUnmapped_answered s

/-- The row's record names a register that lies outside its device's local space. -/
def OutsideDevice (s : State) (f : Frame) : Prop :=
  (f.sel = 1#8 ∧ s.cfg.plicSize < f.a.toNat + f.len.toNat + 1) ∨
  (f.sel = 2#8 ∧ s.cfg.clintSize < f.a.toNat + f.len.toNat + 1) ∨
  (f.sel = 3#8 ∧ s.cfg.sdhcSize < f.a.toNat + f.len.toNat + 1) ∨
  (f.sel = 4#8 ∧ s.cfg.uartSize < f.a.toNat * 2 ^ s.cfg.uartRegShift + 1)

/-- The bytes of a PLIC row are the four at its register's offset. -/
theorem plicRow_fails {s : State} {f : Frame} {slot : PlicSlot} (h : OutsideDevice s f) (hsel : f.sel = 1#8)
    (ha : f.a = BitVec.ofNat 64 slot.offset) (hlen : f.len = 3#8) (hoff : slot.offset < 2 ^ 64) (r : Result) :
    ∃ t, plicAt slot s r = .next t ∧ Answered [] .failed s t := by
  have hout : s.cfg.plicSize < f.a.toNat + f.len.toNat + 1 := by simpa [OutsideDevice, hsel] using h
  rw [ha, hlen, BitVec.toNat_ofNat, Nat.mod_eq_of_lt hoff] at hout
  exact inRange_answered_of_outside hout s r

/-- The bytes of a CLINT row are the `n` at its register's offset. -/
theorem clintRow_fails {s : State} {f : Frame} {slot : ClintSlot} {n : Nat} (h : OutsideDevice s f) (hsel : f.sel = 2#8)
    (ha : f.a = BitVec.ofNat 64 slot.offset) (hlen : f.len.toNat + 1 = n) (hoff : slot.offset < 2 ^ 64) (r : Result) :
    ∃ t, clintAt slot n s r = .next t ∧ Answered [] .failed s t := by
  have hout : s.cfg.clintSize < f.a.toNat + f.len.toNat + 1 := by simpa [OutsideDevice, hsel] using h
  rw [ha, Nat.add_assoc, hlen, BitVec.toNat_ofNat, Nat.mod_eq_of_lt hoff] at hout
  exact inRange_answered_of_outside hout s r

/-- The bytes of an SDHC row are the `n` from byte `j` of its register. -/
theorem sdhcRow_fails {s : State} {f : Frame} {reg : SdhcReg} {j n : Nat} (h : OutsideDevice s f) (hsel : f.sel = 3#8)
    (ha : f.a = BitVec.ofNat 64 (reg.lo + j)) (hlen : f.len = BitVec.ofNat 8 (n - 1)) (hok : reg.accessOk j n = true)
    (r : Result) : ∃ t, sdhcGate (reg.lo + j) n s r = .next t ∧ Answered [] .failed s t := by
  obtain ⟨hj, hn⟩ := Bool.and_eq_true_iff.1 hok
  replace hj := of_decide_eq_true hj
  have hn1 : (BitVec.ofNat 8 (n - 1)).toNat + 1 = n := by
    rcases lenOk_iff.1 hn with rfl | rfl | rfl | rfl <;> rfl
  have hoff : reg.lo + j < 2 ^ 64 := by
    cases reg <;> simp only [SdhcReg.lo, SdhcReg.len] at hj ⊢ <;> omega
  have hout : s.cfg.sdhcSize < f.a.toNat + f.len.toNat + 1 := by simpa [OutsideDevice, hsel] using h
  rw [ha, hlen, Nat.add_assoc, hn1, BitVec.toNat_ofNat, Nat.mod_eq_of_lt hoff] at hout
  exact inRange_answered_of_outside hout s _

/-- The one byte of a UART row is the one of its register number. -/
theorem uartRow_fails {s : State} {f : Frame} {k : Nat} (h : OutsideDevice s f) (hsel : f.sel = 4#8) (hk : f.a.toNat = k)
    (r : Result) : ∃ t, uartAt k s r = .next t ∧ Answered [] .failed s t := by
  have hout : s.cfg.uartSize < f.a.toNat * 2 ^ s.cfg.uartRegShift + 1 := by simpa [OutsideDevice, hsel] using h
  rw [hk] at hout
  exact inRange_answered_of_outside hout s r

/-- `add_device` is a port operation, no load or store (30_encoding.md R130). -/
theorem deviceFrame_fmt (on : Nat) (base : DWord) (d : Device) : (deviceFrame on base d).fmt = 2#8 := by
  cases d <;> rfl

/-- Settles O31: every device row checks its own offset and length against its device's size first. -/
theorem rowsOutsideTheDeviceFail : Obligations.RowsOutsideTheDeviceFail := by
  intro s i hwf hfmt hout
  replace hout : OutsideDevice s i.frame := hout
  cases i with
  | busLoad addr n | busStore addr n v => simp [OutsideDevice, Instr.frame] at hout
  | busAddDevice on base d => simp [Instr.frame, deviceFrame_fmt] at hfmt
  | busFindDevice addr | plicRaiseIrq k level | plicUpdate | plicIntCheck c | clintIncrement delta | uartPoll
  | uartHostInput bytes => simp [Instr.frame, portFrame] at hfmt
  | plicPriorityLd k | plicPrioritySt k v | plicPendingLd w | plicPendingSt w v | plicEnableLd c w | plicEnableSt c w v
  | plicThresholdLd c | plicThresholdSt c v | plicClaimLd c | plicCompleteSt c v =>
    have hbound := of_decide_eq_true hwf
    exact plicRow_fails hout rfl rfl rfl (by simp only [PlicSlot.offset]; omega) _
  | clintMsipLd hart | clintMsipSt hart v | clintMtimecmpLd64 hart | clintMtimecmpLdLo hart | clintMtimecmpLdHi hart
  | clintMtimecmpSt64 hart v | clintMtimecmpStLo hart v | clintMtimecmpStHi hart v =>
    have hbound := of_decide_eq_true hwf
    exact clintRow_fails hout rfl rfl rfl (by simp only [ClintSlot.offset]; omega) _
  | clintMtimeLd64 | clintMtimeLdLo | clintMtimeLdHi | clintMtimeSt64 v | clintMtimeStLo v | clintMtimeStHi v =>
    exact clintRow_fails hout rfl rfl rfl (by decide) _
  | sdhcSysaddrLd j n | sdhcBlksizeLd j n | sdhcBlkcntLd j n | sdhcArgLd j n | sdhcXfermodeLd j n | sdhcCmdLd j n
  | sdhcRespLd j n | sdhcPrsntLd j n | sdhcHostctlLd j n | sdhcPwrctlLd j n | sdhcClkctlLd j n | sdhcToctlLd j n
  | sdhcSwrstLd j n | sdhcNistsLd j n | sdhcEistsLd j n | sdhcNistenLd j n | sdhcEistenLd j n | sdhcNisigenLd j n
  | sdhcEisigenLd j n | sdhcCapsLd j n | sdhcMaxcurLd j n | sdhcVersionLd j n
  | sdhcSysaddrSt j n v | sdhcBlksizeSt j n v | sdhcBlkcntSt j n v | sdhcArgSt j n v | sdhcXfermodeSt j n v | sdhcCmdSt j n v
  | sdhcRespSt j n v | sdhcPrsntSt j n v | sdhcHostctlSt j n v | sdhcPwrctlSt j n v | sdhcClkctlSt j n v | sdhcToctlSt j n v
  | sdhcSwrstSt j n v | sdhcNistsSt j n v | sdhcEistsSt j n v | sdhcNistenSt j n v | sdhcEistenSt j n v | sdhcNisigenSt j n v
  | sdhcEisigenSt j n v | sdhcCapsSt j n v | sdhcMaxcurSt j n v | sdhcVersionSt j n v =>
    exact sdhcRow_fails hout rfl rfl rfl hwf _
  | sdhcBufdataLd | sdhcBufdataSt v => exact sdhcRow_fails (reg := .bufdata) (j := 0) (n := 4) hout rfl rfl rfl rfl _
  | uartRbrLd | uartThrSt v | uartDllLd | uartDllSt v | uartIerLd | uartIerSt v | uartDlmLd | uartDlmSt v | uartIirLd
  | uartFcrSt v | uartLcrLd | uartLcrSt v | uartMcrLd | uartMcrSt v | uartLsrLd | uartLsrSt v | uartPsdLd | uartPsdSt v
  | uartMsrLd | uartMsrSt v | uartScrLd | uartScrSt v => exact uartRow_fails hout rfl rfl _

end Sys2Proof.Machine
end

section
/-! PROOFS. Encoding (30_encoding.md): the records and the well-formed transactions correspond one to one (O1, O2, O3), a Bus access to
a register is the register's row (O21), and a hole follows its device's policy (O30). -/

namespace Sys2Proof

/-! ### O1: records written out from the offset maps (30_encoding.md R130 to R145) -/

/-- Settles O1: the decoder computes each of the ten transactions. -/
theorem recordsDecodeAsTheMapsSay : Obligations.RecordsDecodeAsTheMapsSay :=
  ⟨rfl, rfl, rfl, rfl, rfl, rfl, rfl, rfl, rfl, rfl⟩

/-! ### O2: decode of encode -/

/-- Settles O2: the record of each constructor decodes to it (`Laws.Encodable`), read together in `decode_encode_of_wf`. -/
theorem decodeOfEncodeIsTheTransaction : Obligations.DecodeOfEncodeIsTheTransaction :=
  fun _ hwf => Machine.decode_encode_of_wf hwf

/-! ### O3: whatever decodes is an encoding (30_encoding.md R130, R133) -/

/-- Below its lowest byte, a value's bytes are those of the rest. -/
theorem extractByte_append_succ {w : Nat} (x : BitVec w) (lo : Byte) (i : Nat) :
    (x ++ lo).extractLsb' (8 * (i + 1)) 8 = x.extractLsb' (8 * i) 8 :=
  BitVec.extractLsb'_append_eq_of_le (by omega)

/-- The bytes of an assembled value are the ones it was assembled from. -/
theorem leByte_leValue (b0 b1 b2 b3 b4 b5 b6 b7 : Byte) :
    let v := leValue b0 b1 b2 b3 b4 b5 b6 b7
    leByte v 0 = b0 ∧ leByte v 1 = b1 ∧ leByte v 2 = b2 ∧ leByte v 3 = b3 ∧ leByte v 4 = b4 ∧ leByte v 5 = b5 ∧
      leByte v 6 = b6 ∧ leByte v 7 = b7 := by
  unfold leByte leValue
  refine ⟨?_, ?_, ?_, ?_, ?_, ?_, ?_, ?_⟩ <;> repeat refine (extractByte_append_succ _ _ _).trans ?_
  case refine_8 => exact BitVec.extractLsb'_eq_self
  all_goals exact BitVec.extractLsb'_append_eq_right

/-- Parsing a record loses nothing of it. -/
theorem renderFrame_of_parseFrame {record : List Byte} {f : Frame} (h : parseFrame record = some f) :
    renderFrame f = record := by
  unfold parseFrame at h
  split at h
  next =>
    cases h
    simp only [renderFrame, leByte_leValue]
  next => cases h

/-- The record fields `f` are the ones of `i`, and `i` is well formed. -/
def EncodedBy (f : Frame) (i : Instr) : Prop := i.wf = true ∧ i.frame = f

theorem orReserved_eq_ok {clean : Bool} {i j : Instr} (h : orReserved clean i = .ok j) : clean = true ∧ i = j := by
  cases clean with
  | false => cases h
  | true => exact ⟨rfl, Except.ok.inj h⟩

theorem rowOr_eq_ok {clean : Bool} {row : Option Instr} {i : Instr} (h : rowOr clean row = .ok i) :
    clean = true ∧ row = some i := by
  cases row with
  | none => cases h
  | some j =>
    obtain ⟨hclean, rfl⟩ := orReserved_eq_ok h
    exact ⟨hclean, rfl⟩

/-- A row that decodes passed both tests that the decoder makes of the record's other fields. -/
theorem rowOr_and_eq_ok {p q : Prop} [Decidable p] [Decidable q] {row : Option Instr} {i : Instr}
    (h : rowOr (decide p && decide q) row = .ok i) : p ∧ q ∧ row = some i := by
  obtain ⟨hclean, hrow⟩ := rowOr_eq_ok h
  obtain ⟨hp, hq⟩ := Bool.and_eq_true_iff.1 hclean
  exact ⟨of_decide_eq_true hp, of_decide_eq_true hq, hrow⟩

/-! #### Frames from their fields -/

theorem loadFrame_eq {f : Frame} {sel : Byte} {off n : Nat} (hfmt : f.fmt = 0#8) (hsel : f.sel = sel)
    (hn : f.len.toNat + 1 = n) (ha : f.a.toNat = off) (haux : f.aux = 0#8) (hb : f.b = 0#64) (hc : f.c = 0#64)
    (hp : f.payload = []) : loadFrame sel off n = f := by
  cases f
  simp_all [loadFrame, ← hn, ← ha]

theorem storeFrame_eq {f : Frame} {sel : Byte} {off n : Nat} (hfmt : f.fmt = 1#8) (hsel : f.sel = sel)
    (hn : f.len.toNat + 1 = n) (ha : f.a.toNat = off) (haux : f.aux = 0#8) (hc : f.c = 0#64)
    (hp : f.payload = []) : storeFrame sel off n f.b = f := by
  cases f
  simp_all [storeFrame, ← hn, ← ha]

/-- A value below `2^32` is the one a 32-bit operand carries. -/
theorem setWidth_word_of_lt {v : DWord} (h : v.toNat < 2 ^ 32) : (v.setWidth 32).setWidth 64 = v := by
  bv_omega

theorem setWidth_byte_of_lt {v : DWord} (h : v.toNat < 2 ^ 8) : (v.setWidth 8).setWidth 64 = v := by
  bv_omega

/-! #### PLIC -/

/-- The index ranges of the PLIC registers that have an offset (30_encoding.md R134). -/
def PlicSlot.fits : PlicSlot → Bool
  | .priority k => decide (k < 1024)
  | .pending w => decide (w < 32)
  | .enable c w => decide (c < 15872 ∧ w < 32)
  | .threshold c => decide (c < 15872)
  | .claim c => decide (c < 15872)
  | .hole => false

/-- The PLIC map names a hole, or the register in range whose offset this is. -/
theorem plicSlot_hole_or_at {off : Nat} (h4 : off % 4 = 0) :
    plicSlot off = .hole ∨ ((plicSlot off).fits = true ∧ (plicSlot off).offset = off) := by
  unfold plicSlot
  split_ifs <;> simp only [PlicSlot.fits, PlicSlot.offset, decide_eq_true_eq, true_or, reduceCtorEq, false_or] <;> omega

theorem plicLoadRow_frame {slot : PlicSlot} {i : Instr} (h : plicLoadRow slot = some i) :
    i.wf = slot.fits ∧ i.frame = loadFrame 1#8 slot.offset 4 := by
  cases slot <;> cases h <;> exact ⟨rfl, rfl⟩

theorem plicStoreRow_frame {v : Word} {slot : PlicSlot} {i : Instr} (h : plicStoreRow v slot = some i) :
    i.wf = slot.fits ∧ i.frame = storeFrame 1#8 slot.offset 4 (v.setWidth 64) := by
  cases slot <;> cases h <;> exact ⟨rfl, rfl⟩

theorem plicLoadRow_at {off : Nat} {i : Instr} (h4 : off % 4 = 0) (h : plicLoadRow (plicSlot off) = some i) :
    i.wf = true ∧ i.frame = loadFrame 1#8 off 4 := by
  obtain ⟨hwf, hframe⟩ := plicLoadRow_frame h
  rcases plicSlot_hole_or_at h4 with hhole | ⟨hfits, hoff⟩
  · rw [hhole] at h
    cases h
  · rw [hwf, hframe, hoff]
    exact ⟨hfits, rfl⟩

theorem plicStoreRow_at {off : Nat} {v : Word} {i : Instr} (h4 : off % 4 = 0) (h : plicStoreRow v (plicSlot off) = some i) :
    i.wf = true ∧ i.frame = storeFrame 1#8 off 4 (v.setWidth 64) := by
  obtain ⟨hwf, hframe⟩ := plicStoreRow_frame h
  rcases plicSlot_hole_or_at h4 with hhole | ⟨hfits, hoff⟩
  · rw [hhole] at h
    cases h
  · rw [hwf, hframe, hoff]
    exact ⟨hfits, rfl⟩

/-! #### CLINT -/

/-- The index ranges of the CLINT registers that have an offset (30_encoding.md R136). -/
def ClintSlot.fits : ClintSlot → Bool
  | .msip h => decide (h ≤ 4094)
  | .cmp64 h => decide (h ≤ 4094)
  | .cmpLo h => decide (h ≤ 4094)
  | .cmpHi h => decide (h ≤ 4094)
  | .time64 => true
  | .timeLo => true
  | .timeHi => true
  | .hole => false
  | .refuse => false

/-- The length of the access that reaches each CLINT register (20_memory.md R105). -/
def ClintSlot.width : ClintSlot → Nat
  | .cmp64 _ => 8
  | .time64 => 8
  | .msip _ => 4
  | .cmpLo _ => 4
  | .cmpHi _ => 4
  | .timeLo => 4
  | .timeHi => 4
  | .hole => 0
  | .refuse => 0

/-- The CLINT map names a hole, a refusal, or the register in range whose offset and width these are. -/
theorem clintSlot_hole_or_refuse_or_at (harts off n : Nat) :
    clintSlot harts off n = .hole ∨ clintSlot harts off n = .refuse ∨
      ((clintSlot harts off n).fits = true ∧ (clintSlot harts off n).offset = off ∧ (clintSlot harts off n).width = n) := by
  unfold clintSlot
  split_ifs <;>
    simp only [ClintSlot.fits, ClintSlot.offset, ClintSlot.width, decide_eq_true_eq, true_or, or_true, reduceCtorEq, false_or,
      true_and] <;> omega

theorem clintLoadRow_frame {slot : ClintSlot} {i : Instr} (h : clintLoadRow slot = some i) :
    i.wf = slot.fits ∧ i.frame = loadFrame 2#8 slot.offset slot.width := by
  cases slot <;> cases h <;> exact ⟨rfl, rfl⟩

theorem clintStoreRow_frame {v : DWord} {slot : ClintSlot} {i : Instr} (h : clintStoreRow v slot = some i)
    (hv : slot.width = 4 → v.toNat < 2 ^ 32) : i.wf = slot.fits ∧ i.frame = storeFrame 2#8 slot.offset slot.width v := by
  cases slot <;> cases h
  case cmp64 | time64 => exact ⟨rfl, rfl⟩
  all_goals
    refine ⟨rfl, ?_⟩
    simp only [Instr.frame, ClintSlot.width, setWidth_word_of_lt (hv rfl)]

theorem clintLoadRow_at {harts off n : Nat} {i : Instr} (h : clintLoadRow (clintSlot harts off n) = some i) :
    i.wf = true ∧ i.frame = loadFrame 2#8 off n := by
  obtain ⟨hwf, hframe⟩ := clintLoadRow_frame h
  rcases clintSlot_hole_or_refuse_or_at harts off n with hhole | hrefuse | ⟨hfits, hoff, hwidth⟩
  · rw [hhole] at h
    cases h
  · rw [hrefuse] at h
    cases h
  · rw [hwf, hframe, hoff, hwidth]
    exact ⟨hfits, rfl⟩

theorem clintStoreRow_at {harts off n : Nat} {v : DWord} {i : Instr} (hv : n = 4 → v.toNat < 2 ^ 32)
    (h : clintStoreRow v (clintSlot harts off n) = some i) : i.wf = true ∧ i.frame = storeFrame 2#8 off n v := by
  rcases clintSlot_hole_or_refuse_or_at harts off n with hhole | hrefuse | ⟨hfits, hoff, hwidth⟩
  · rw [hhole] at h
    cases h
  · rw [hrefuse] at h
    cases h
  · obtain ⟨hwf, hframe⟩ := clintStoreRow_frame h fun hw => hv (hwidth ▸ hw)
    rw [hwf, hframe, hoff, hwidth]
    exact ⟨hfits, rfl⟩

/-! #### SDHC -/

theorem sdhcOwner_eq_some {off j : Nat} {r : SdhcReg} (h : sdhcOwner off = some (r, j)) : j < r.len ∧ r.lo + j = off := by
  unfold sdhcOwner at h
  obtain ⟨r', hfind, heq⟩ := Option.map_eq_some_iff.1 h
  have hin : r'.lo ≤ off ∧ off < r'.lo + r'.len := by simpa using List.find?_some hfind
  cases heq
  omega

theorem SdhcReg.accessOk_of_lt {r : SdhcReg} {j n : Nat} (hj : j < r.len) (hn : lenOk n = true) : r.accessOk j n = true :=
  Bool.and_eq_true_iff.2 ⟨decide_eq_true hj, hn⟩

theorem SdhcReg.ldInstr_frame {r : SdhcReg} (hr : r ≠ .bufdata) (j n : Nat) :
    (r.ldInstr j n).wf = r.accessOk j n ∧ (r.ldInstr j n).frame = loadFrame 3#8 (r.lo + j) n := by
  cases r
  case bufdata => exact absurd rfl hr
  all_goals exact ⟨rfl, rfl⟩

theorem SdhcReg.stInstr_frame {r : SdhcReg} (hr : r ≠ .bufdata) (j n : Nat) (v : DWord) :
    (r.stInstr j n v).wf = r.accessOk j n ∧ (r.stInstr j n v).frame = storeFrame 3#8 (r.lo + j) n v := by
  cases r
  case bufdata => exact absurd rfl hr
  all_goals exact ⟨rfl, rfl⟩

/-! #### UART -/

/-- The number `k` of each UART register (30_encoding.md R140). -/
def UartReg.number : UartReg → Nat
  | .rbr => 0
  | .thr => 0
  | .dll => 0
  | .ier => 1
  | .dlm => 1
  | .iir => 2
  | .fcr => 2
  | .lcr => 3
  | .mcr => 4
  | .lsr => 5
  | .psd => 5
  | .msr => 6
  | .scr => 7

theorem uartLoadReg_number {dlab : Bool} {k : Nat} {r : UartReg} (h : uartLoadReg dlab k = some r) : r.number = k := by
  unfold uartLoadReg at h
  split at h <;> cases dlab <;> cases h <;> rfl

theorem uartStoreReg_number {dlab : Bool} {k : Nat} {r : UartReg} (h : uartStoreReg dlab k = some r) : r.number = k := by
  unfold uartStoreReg at h
  split at h <;> cases dlab <;> cases h <;> rfl

theorem uartLoadRow_frame {r : UartReg} {i : Instr} (h : uartLoadRow r = some i) :
    i.wf = true ∧ i.frame = uartLoadFrame r.number (uartDlabByte r) := by
  cases r <;> cases h <;> exact ⟨rfl, rfl⟩

theorem uartStoreRow_frame {v : Byte} {r : UartReg} {i : Instr} (h : uartStoreRow v r = some i) :
    i.wf = true ∧ i.frame = uartStoreFrame r.number (uartDlabByte r) v := by
  cases r <;> cases h <;> exact ⟨rfl, rfl⟩

/-- A record's UART register is the one its number and its `dlab` pick, and it carries that `dlab`. -/
theorem uartFrameReg_eq_some {f : Frame} {pick : Bool → Nat → Option UartReg} {r : UartReg} (h : uartFrameReg f pick = some r) :
    pick (decide (f.aux = 1#8)) f.a.toNat = some r ∧ uartDlabByte r = f.aux := by
  unfold uartFrameReg at h
  split at h
  next hpick =>
    split_ifs at h with hdlab
    cases h
    exact ⟨hpick, hdlab⟩
  next => cases h

theorem uartLoadFrame_eq {f : Frame} {k : Nat} {dlab : Byte} (hfmt : f.fmt = 0#8) (hsel : f.sel = 4#8)
    (hn : f.len.toNat + 1 = 1) (ha : k = f.a.toNat) (haux : dlab = f.aux) (hb : f.b = 0#64) (hc : f.c = 0#64)
    (hp : f.payload = []) : uartLoadFrame k dlab = f := by
  have hlen : f.len = 0#8 := by bv_omega
  cases f
  simp_all [uartLoadFrame]

theorem uartStoreFrame_eq {f : Frame} {k : Nat} {dlab : Byte} (hfmt : f.fmt = 1#8) (hsel : f.sel = 4#8)
    (hn : f.len.toNat + 1 = 1) (ha : k = f.a.toNat) (haux : dlab = f.aux) (hb : f.b.toNat < 2 ^ 8) (hc : f.c = 0#64)
    (hp : f.payload = []) : uartStoreFrame k dlab (f.b.setWidth 8) = f := by
  have hlen : f.len = 0#8 := by bv_omega
  have hv := setWidth_byte_of_lt hb
  cases f
  simp_all [uartStoreFrame]

/-! #### The records of each format -/

/-- One arm for each device that a load's selector names (30_encoding.md R131). -/
theorem encodedBy_of_decodeLoad {f : Frame} {i : Instr} (hfmt : f.fmt = 0#8) (h : decodeLoad f = .ok i) : EncodedBy f i := by
  unfold decodeLoad at h
  dsimp only at h
  split at h
  next hsel => -- Bus
    replace hsel : f.sel = 0#8 := BitVec.eq_of_toNat_eq hsel
    obtain ⟨hclean, rfl⟩ := orReserved_eq_ok h
    simp only [Bool.and_eq_true, decide_eq_true_eq] at hclean
    obtain ⟨⟨hb, hc, hp⟩, haux⟩ := hclean
    refine ⟨decide_eq_true (by omega), ?_⟩
    cases f
    simp_all [Instr.frame]
  next hsel => -- PLIC
    obtain ⟨⟨hb, hc, hp⟩, haux, hrow⟩ := rowOr_and_eq_ok h
    split_ifs at hrow with hshape
    obtain ⟨hn, h4⟩ := of_decide_eq_true hshape
    obtain ⟨hwf, hframe⟩ := plicLoadRow_at h4 hrow
    exact ⟨hwf, hframe.trans (loadFrame_eq hfmt (BitVec.eq_of_toNat_eq hsel) hn rfl haux hb hc hp)⟩
  next hsel => -- CLINT
    obtain ⟨⟨hb, hc, hp⟩, haux, hrow⟩ := rowOr_and_eq_ok h
    obtain ⟨hwf, hframe⟩ := clintLoadRow_at hrow
    exact ⟨hwf, hframe.trans (loadFrame_eq hfmt (BitVec.eq_of_toNat_eq hsel) rfl rfl haux hb hc hp)⟩
  next hsel => -- SDHC
    split at h
    next r j howner =>
      obtain ⟨⟨hb, hc, hp⟩, haux, hrow⟩ := rowOr_and_eq_ok h
      obtain ⟨hj, hoff⟩ := sdhcOwner_eq_some howner
      have hframe {n : Nat} (hn : f.len.toNat + 1 = n) : loadFrame 3#8 (r.lo + j) n = f :=
        loadFrame_eq hfmt (BitVec.eq_of_toNat_eq hsel) hn hoff.symm haux hb hc hp
      split_ifs at hrow with hr hport hlen
      · obtain ⟨rfl, hn⟩ := hport
        cases hrow
        subst hr
        exact ⟨rfl, hframe hn⟩
      · cases hrow
        obtain ⟨hwf, hrowFrame⟩ := SdhcReg.ldInstr_frame hr j (f.len.toNat + 1)
        exact ⟨hwf.trans (SdhcReg.accessOk_of_lt hj hlen), hrowFrame.trans (hframe rfl)⟩
    next => cases h
  next hsel => -- UART
    obtain ⟨hclean, hrow⟩ := rowOr_eq_ok h
    obtain ⟨hb, hc, hp⟩ := of_decide_eq_true hclean
    split_ifs at hrow with hn
    obtain ⟨r, hreg, hrow⟩ := Option.bind_eq_some_iff.1 hrow
    obtain ⟨hpick, hdlab⟩ := uartFrameReg_eq_some hreg
    obtain ⟨hwf, hframe⟩ := uartLoadRow_frame hrow
    exact ⟨hwf, hframe.trans
      (uartLoadFrame_eq hfmt (BitVec.eq_of_toNat_eq hsel) hn (uartLoadReg_number hpick) hdlab hb hc hp)⟩
  next => cases h

/-- As for a load, and the value stored fits the register's width. -/
theorem encodedBy_of_decodeStore {f : Frame} {i : Instr} (hfmt : f.fmt = 1#8) (h : decodeStore f = .ok i) : EncodedBy f i := by
  unfold decodeStore at h
  dsimp only at h
  split at h
  next hsel => -- Bus
    replace hsel : f.sel = 0#8 := BitVec.eq_of_toNat_eq hsel
    obtain ⟨hclean, rfl⟩ := orReserved_eq_ok h
    simp only [Bool.and_eq_true, decide_eq_true_eq] at hclean
    obtain ⟨⟨hc, hp⟩, haux⟩ := hclean
    refine ⟨decide_eq_true (by omega), ?_⟩
    cases f
    simp_all [Instr.frame]
  next hsel => -- PLIC
    obtain ⟨⟨hc, hp⟩, ⟨haux, hb⟩, hrow⟩ := rowOr_and_eq_ok h
    split_ifs at hrow with hshape
    obtain ⟨hn, h4⟩ := of_decide_eq_true hshape
    obtain ⟨hwf, hframe⟩ := plicStoreRow_at h4 hrow
    rw [setWidth_word_of_lt hb] at hframe
    exact ⟨hwf, hframe.trans (storeFrame_eq hfmt (BitVec.eq_of_toNat_eq hsel) hn rfl haux hc hp)⟩
  next hsel => -- CLINT
    obtain ⟨⟨hc, hp⟩, ⟨haux, hb⟩, hrow⟩ := rowOr_and_eq_ok h
    obtain ⟨hwf, hframe⟩ := clintStoreRow_at hb hrow
    exact ⟨hwf, hframe.trans (storeFrame_eq hfmt (BitVec.eq_of_toNat_eq hsel) rfl rfl haux hc hp)⟩
  next hsel => -- SDHC
    split at h
    next r j howner =>
      obtain ⟨hj, hoff⟩ := sdhcOwner_eq_some howner
      split at h
      next hr =>
        obtain ⟨⟨hc, hp⟩, ⟨haux, hb⟩, hrow⟩ := rowOr_and_eq_ok h
        split_ifs at hrow with hport
        obtain ⟨rfl, hn⟩ := hport
        cases hrow
        subst hr
        refine ⟨rfl, ?_⟩
        simp only [Instr.frame, setWidth_word_of_lt hb]
        exact storeFrame_eq hfmt (BitVec.eq_of_toNat_eq hsel) hn hoff.symm haux hc hp
      next hr =>
        obtain ⟨⟨hc, hp⟩, haux, hrow⟩ := rowOr_and_eq_ok h
        split_ifs at hrow with hlen
        cases hrow
        obtain ⟨hwf, hframe⟩ := SdhcReg.stInstr_frame hr j (f.len.toNat + 1) f.b
        exact ⟨hwf.trans (SdhcReg.accessOk_of_lt hj hlen),
          hframe.trans (storeFrame_eq hfmt (BitVec.eq_of_toNat_eq hsel) rfl hoff.symm haux hc hp)⟩
    next => cases h
  next hsel => -- UART
    obtain ⟨⟨hc, hp⟩, hb, hrow⟩ := rowOr_and_eq_ok h
    split_ifs at hrow with hn
    obtain ⟨r, hreg, hrow⟩ := Option.bind_eq_some_iff.1 hrow
    obtain ⟨hpick, hdlab⟩ := uartFrameReg_eq_some hreg
    obtain ⟨hwf, hframe⟩ := uartStoreRow_frame hrow
    exact ⟨hwf, hframe.trans
      (uartStoreFrame_eq hfmt (BitVec.eq_of_toNat_eq hsel) hn (uartStoreReg_number hpick) hdlab hb hc hp)⟩
  next => cases h

/-- A device operand's record fields are the ones it was read from. -/
theorem deviceFrame_of_frameDevice {kind : Nat} {size id : DWord} {d : Device} (h : frameDevice kind size id = some d)
    (on : Nat) (base : DWord) :
    deviceFrame on base d = ⟨2#8, 0#8, BitVec.ofNat 8 on, BitVec.ofNat 8 kind, base, size, id, []⟩ := by
  unfold frameDevice at h
  split at h
  case h_7 => cases h
  case h_5 | h_6 =>
    cases h
    simp only [deviceFrame, BitVec.ofNat_toNat, BitVec.setWidth_eq]
  all_goals
    split_ifs at h with hunused
    obtain ⟨rfl, rfl⟩ := hunused
    cases h
    rfl

theorem portFrame_eq {f : Frame} {op : Byte} {a b : DWord} {payload : List Byte} (hfmt : f.fmt = 2#8) (hsel : f.sel = op)
    (hlen : f.len = 0#8) (haux : f.aux = 0#8) (ha : a = f.a) (hb : b = f.b) (hc : f.c = 0#64) (hp : payload = f.payload) :
    portFrame op a b payload = f := by
  cases f
  simp_all [portFrame]

/-- A level operand is the one its field holds. -/
theorem level_field_of_lt {b : DWord} (h : b.toNat < 2) : (if decide (b = 1#64) then 1#64 else 0#64) = b := by
  have hb : b = 0#64 ∨ b = 1#64 := by bv_omega
  rcases hb with rfl | rfl <;> rfl

/-- One arm for each port operation (30_encoding.md R133). -/
theorem encodedBy_of_decodePort {f : Frame} {i : Instr} (hfmt : f.fmt = 2#8) (h : decodePort f = .ok i) : EncodedBy f i := by
  have ha : BitVec.ofNat 64 f.a.toNat = f.a := by rw [BitVec.ofNat_toNat, BitVec.setWidth_eq]
  unfold decodePort at h
  split at h
  next hsel => -- `add_device`
    split at h
    next d hdevice =>
      obtain ⟨hclean, rfl⟩ := orReserved_eq_ok h
      obtain ⟨hp, hd⟩ := of_decide_eq_true hclean
      refine ⟨Bool.and_eq_true_iff.2 ⟨decide_eq_true f.len.isLt, hd⟩, ?_⟩
      refine (deviceFrame_of_frameDevice hdevice _ _).trans ?_
      replace hsel : f.sel = 0#8 := BitVec.eq_of_toNat_eq hsel
      cases f
      simp_all
    next => cases h
  next hsel => -- `find_device`
    obtain ⟨hclean, rfl⟩ := orReserved_eq_ok h
    obtain ⟨hlen, haux, hb, hc, hp⟩ := of_decide_eq_true hclean
    exact ⟨rfl, portFrame_eq hfmt (BitVec.eq_of_toNat_eq hsel) hlen haux rfl hb.symm hc hp.symm⟩
  next hsel => -- `raise_irq`
    obtain ⟨hclean, rfl⟩ := orReserved_eq_ok h
    obtain ⟨hlen, haux, hb, hc, hp⟩ := of_decide_eq_true hclean
    exact ⟨decide_eq_true f.a.isLt,
      portFrame_eq hfmt (BitVec.eq_of_toNat_eq hsel) hlen haux ha (level_field_of_lt hb) hc hp.symm⟩
  next hsel => -- `update`
    obtain ⟨hclean, rfl⟩ := orReserved_eq_ok h
    obtain ⟨hlen, haux, ha, hb, hc, hp⟩ := of_decide_eq_true hclean
    exact ⟨rfl, portFrame_eq hfmt (BitVec.eq_of_toNat_eq hsel) hlen haux ha.symm hb.symm hc hp.symm⟩
  next hsel => -- `int_check`
    obtain ⟨hclean, rfl⟩ := orReserved_eq_ok h
    obtain ⟨hlen, haux, hb, hc, hp⟩ := of_decide_eq_true hclean
    exact ⟨decide_eq_true f.a.isLt,
      portFrame_eq hfmt (BitVec.eq_of_toNat_eq hsel) hlen haux ha hb.symm hc hp.symm⟩
  next hsel => -- `increment`
    obtain ⟨hclean, rfl⟩ := orReserved_eq_ok h
    obtain ⟨hlen, haux, hb, hc, hp⟩ := of_decide_eq_true hclean
    exact ⟨rfl, portFrame_eq hfmt (BitVec.eq_of_toNat_eq hsel) hlen haux rfl hb.symm hc hp.symm⟩
  next hsel => -- `poll`
    obtain ⟨hclean, rfl⟩ := orReserved_eq_ok h
    obtain ⟨hlen, haux, ha, hb, hc, hp⟩ := of_decide_eq_true hclean
    exact ⟨rfl, portFrame_eq hfmt (BitVec.eq_of_toNat_eq hsel) hlen haux ha.symm hb.symm hc hp.symm⟩
  next hsel => -- `host_input`
    obtain ⟨hclean, rfl⟩ := orReserved_eq_ok h
    obtain ⟨hlen, haux, ha, hb, hc⟩ := of_decide_eq_true hclean
    exact ⟨rfl, portFrame_eq hfmt (BitVec.eq_of_toNat_eq hsel) hlen haux ha.symm hb.symm hc rfl⟩
  next => cases h

theorem encodedBy_of_decodeFrame {f : Frame} {i : Instr} (h : decodeFrame f = .ok i) : EncodedBy f i := by
  unfold decodeFrame at h
  split at h
  next hfmt => exact encodedBy_of_decodeLoad (BitVec.eq_of_toNat_eq hfmt) h
  next hfmt => exact encodedBy_of_decodeStore (BitVec.eq_of_toNat_eq hfmt) h
  next hfmt => exact encodedBy_of_decodePort (BitVec.eq_of_toNat_eq hfmt) h
  all_goals cases h

/-- Settles O3: parsing loses no byte of the record, and each decoder answers only with the transaction whose fields it read. -/
theorem decodedRecordsAreEncodings : Obligations.DecodedRecordsAreEncodings := by
  intro record i h
  unfold decode at h
  split at h
  next f hparse =>
    obtain ⟨hwf, hframe⟩ := encodedBy_of_decodeFrame h
    exact ⟨hwf, by rw [encode, hframe, renderFrame_of_parseFrame hparse]⟩
  next => cases h

end Sys2Proof

namespace Sys2Proof.Machine

/-! ### O21: a Bus access to a register is the register's row (30_encoding.md R131) -/

theorem lowHalf_eq_setWidth (v : DWord) : lowHalf v = v.setWidth 32 := (BitVec.setWidth_eq_extractLsb' (by decide)).symm

theorem getByte_zero_eq_setWidth (v : DWord) : getByte v 0 = v.setWidth 8 := (BitVec.setWidth_eq_extractLsb' (by decide)).symm

theorem plicLoad_eq_exec_row {off : Nat} {i : Instr} (h4 : off % 4 = 0) (hrow : plicLoadRow (plicSlot off) = some i) (s : State) :
    plicLoad off 4 s = exec i s := by
  have hshape : plicShapeOk off 4 = true := decide_eq_true ⟨rfl, h4⟩
  unfold plicLoad
  rw [if_pos hshape]
  generalize plicSlot off = slot at hrow ⊢
  cases slot <;> cases hrow <;> rfl

theorem plicStore_eq_exec_row {off : Nat} {v : DWord} {i : Instr} (h4 : off % 4 = 0)
    (hrow : plicStoreRow (v.setWidth 32) (plicSlot off) = some i) (s : State) : plicStore off 4 v s = exec i s := by
  have hshape : plicShapeOk off 4 = true := decide_eq_true ⟨rfl, h4⟩
  unfold plicStore
  rw [if_pos hshape, lowHalf_eq_setWidth]
  generalize plicSlot off = slot at hrow ⊢
  cases slot <;> cases hrow <;> rfl

theorem clintLoad_eq_exec_row {off n : Nat} {i : Instr} {s : State}
    (hrow : clintLoadRow (clintSlot s.cfg.numHarts off n) = some i) : clintLoad off n s = exec i s := by
  unfold clintLoad
  generalize clintSlot s.cfg.numHarts off n = slot at hrow ⊢
  cases slot <;> cases hrow <;> rfl

theorem clintStore_eq_exec_row {off n : Nat} {v : DWord} {i : Instr} {s : State}
    (hrow : clintStoreRow v (clintSlot s.cfg.numHarts off n) = some i) : clintStore off n v s = exec i s := by
  unfold clintStore
  rw [lowHalf_eq_setWidth]
  generalize clintSlot s.cfg.numHarts off n = slot at hrow ⊢
  cases slot <;> cases hrow <;> rfl

/-- The register spacing puts register `k` at `k * 2^shift`. -/
theorem uartIndex_at {k : Nat} (hk : k ≤ 7) (shift : Nat) : uartIndex shift (k * 2 ^ shift) = some k := by
  have hdiv : k * 2 ^ shift / 2 ^ shift = k := Nat.mul_div_cancel k (Nat.two_pow_pos shift)
  unfold uartIndex
  rw [hdiv, if_pos ⟨Nat.mul_mod_left k _, hk⟩]

theorem uartLoad_eq_exec_row {off k : Nat} {i : Instr} {s : State} (hindex : uartIndex s.cfg.uartRegShift off = some k)
    (hrow : (uartLoadReg s.uart.dlab k).bind uartLoadRow = some i) : uartLoad off 1 s = exec i s := by
  unfold uartLoad
  rw [if_pos rfl, hindex]
  generalize s.uart.dlab = dlab at hrow ⊢
  obtain ⟨r, hreg, hrow⟩ := Option.bind_eq_some_iff.1 hrow
  unfold uartLoadReg at hreg
  split at hreg <;> cases dlab <;> cases hreg <;> cases hrow <;> rfl

theorem uartStore_eq_exec_row {off k : Nat} {v : DWord} {i : Instr} {s : State}
    (hindex : uartIndex s.cfg.uartRegShift off = some k)
    (hrow : (uartStoreReg s.uart.dlab k).bind (uartStoreRow (v.setWidth 8)) = some i) : uartStore off 1 v s = exec i s := by
  unfold uartStore
  rw [if_pos rfl, hindex, getByte_zero_eq_setWidth]
  generalize s.uart.dlab = dlab at hrow ⊢
  obtain ⟨r, hreg, hrow⟩ := Option.bind_eq_some_iff.1 hrow
  unfold uartStoreReg at hreg
  split at hreg <;> cases dlab <;> cases hreg <;> cases hrow <;> rfl

theorem sdhcLoad_eq_exec_row {r : SdhcReg} {j n : Nat} (hport : r = .bufdata → j = 0 ∧ n = 4) (s : State) :
    sdhcLoad (r.lo + j) n s = exec (r.ldInstr j n) s := by
  cases r
  case bufdata =>
    obtain ⟨rfl, rfl⟩ := hport rfl
    rfl
  all_goals rfl

/-- A store to the port takes the low half of its value. -/
theorem sdhcStore_port (v : DWord) (s : State) :
    sdhcStore SdhcReg.bufdata.lo 4 v s = sdhcStore SdhcReg.bufdata.lo 4 ((v.setWidth 32).setWidth 64) s := by
  have hlow : lowHalf ((v.setWidth 32).setWidth 64) = lowHalf v := by
    rw [lowHalf_eq_setWidth, lowHalf_eq_setWidth, BitVec.setWidth_setWidth_of_le _ (by decide), BitVec.setWidth_eq]
  have htouch : touchesBufdata SdhcReg.bufdata.lo 4 = true := rfl
  unfold sdhcStore
  rw [if_pos htouch, if_pos htouch, hlow]

theorem sdhcStore_eq_exec_row {r : SdhcReg} {j n : Nat} (hport : r = .bufdata → j = 0 ∧ n = 4) (v : DWord) (s : State) :
    sdhcStore (r.lo + j) n v s = exec (r.stInstr j n v) s := by
  cases r
  case bufdata =>
    obtain ⟨rfl, rfl⟩ := hport rfl
    exact sdhcStore_port v s
  all_goals rfl

/-- Settles O21: each device's access at a register is, by its offset map, the meaning of the register's row. -/
theorem busAccessesAreRows : Obligations.BusAccessesAreRows := by
  intro s addr off v
  refine ⟨fun hroute h4 => ?_, fun n hn hroute => ?_, fun k hk hoff hroute => ?_, fun r j n hn _ hoff hport hroute => ?_⟩
  · rw [exec_busLoad_of_route rfl hroute, exec_busStore_of_route rfl hroute]
    exact ⟨fun _ hrow => plicLoad_eq_exec_row h4 hrow s, fun _ hrow => plicStore_eq_exec_row h4 hrow s⟩
  · have hlen : lenOk n = true := lenOk_iff.2 (by omega)
    rw [exec_busLoad_of_route hlen hroute, exec_busStore_of_route hlen hroute]
    exact ⟨fun _ hrow => clintLoad_eq_exec_row hrow, fun _ hrow => clintStore_eq_exec_row hrow⟩
  · have hindex : uartIndex s.cfg.uartRegShift off = some k := hoff ▸ uartIndex_at hk _
    rw [exec_busLoad_of_route rfl hroute, exec_busStore_of_route rfl hroute]
    exact ⟨fun _ hrow => uartLoad_eq_exec_row hindex hrow, fun _ hrow => uartStore_eq_exec_row hindex hrow⟩
  · subst hoff
    rw [exec_busLoad_of_route (lenOk_iff.2 hn) hroute, exec_busStore_of_route (lenOk_iff.2 hn) hroute]
    exact ⟨sdhcLoad_eq_exec_row hport s, sdhcStore_eq_exec_row hport v s⟩

/-! ### O30: holes (30_encoding.md R150) -/

theorem holeLoad_answered (p : HolePolicy) (n : Nat) (s : State) :
    ∃ t, holeLoad p n s = .next t ∧ Answered [] (holeLoadAnswer n p) s t := by
  cases p <;> exact ⟨_, rfl, .respond _ s⟩

theorem holeStore_answered (p : HolePolicy) (s : State) :
    ∃ t, holeStore p s = .next t ∧ Answered [] (holeStoreAnswer p) s t := by
  cases p <;> exact ⟨_, rfl, .respond _ s⟩

theorem plic_at_hole {off : Nat} (h4 : off % 4 = 0) (hslot : plicSlot off = .hole) (v : DWord) (s : State) :
    plicLoad off 4 s = holeLoad s.cfg.holePlic 4 s ∧ plicStore off 4 v s = holeStore s.cfg.holePlic s := by
  have hshape : plicShapeOk off 4 = true := decide_eq_true ⟨rfl, h4⟩
  unfold plicLoad plicStore
  rw [if_pos hshape, if_pos hshape, hslot]
  exact ⟨rfl, rfl⟩

theorem clint_at_hole {off n : Nat} {s : State} (hslot : clintSlot s.cfg.numHarts off n = .hole) (v : DWord) :
    clintLoad off n s = holeLoad s.cfg.holeClint n s ∧ clintStore off n v s = holeStore s.cfg.holeClint s := by
  unfold clintLoad clintStore
  rw [hslot]
  exact ⟨rfl, rfl⟩

theorem uart_at_hole {off : Nat} {s : State} (hindex : uartIndex s.cfg.uartRegShift off = none) (v : DWord) :
    uartLoad off 1 s = holeLoad s.cfg.holeUart 1 s ∧ uartStore off 1 v s = holeStore s.cfg.holeUart s := by
  unfold uartLoad uartStore
  rw [if_pos rfl, if_pos rfl, hindex]
  exact ⟨rfl, rfl⟩

/-- Under policy `fail` an SDHC access beside `BUFDATA` that covers a hole fails whole (43_sdhc.md R262). -/
theorem sdhcGate_fails_at_hole {off n : Nat} {s : State} (hin : off + n ≤ s.cfg.sdhcSize) (hmounted : s.sdhc.mounted = true)
    (hbeside : off + n ≤ 0x20 ∨ 0x24 ≤ off) (hhole : coversHole off n = true) (hfail : s.cfg.holeSdhc = .fail) (r : Result) :
    sdhcGate off n s r = failUnmapped s := by
  have hport : ¬touchesBufdata off n = true := mt of_decide_eq_true (by omega)
  unfold sdhcGate inRange
  rw [if_pos hin, if_neg (by simp [hmounted]), if_neg fun h => hport h.1, if_pos ⟨hhole, hfail⟩]

/-- Settles O30: a device's access at a hole is the hole's answer, and an SDHC access that covers one fails at the gate. -/
theorem holesFollowTheirPolicy : Obligations.HolesFollowTheirPolicy := by
  intro s addr n off v p hcases
  rcases hcases with ⟨hroute, rfl, h4, hslot, rfl⟩ | ⟨hroute, hn, hslot, rfl⟩ | ⟨hroute, rfl, hindex, rfl⟩ |
    ⟨hroute, hn, hin, hmounted, hbeside, hhole, hp, rfl⟩
  · obtain ⟨hload, hstore⟩ := plic_at_hole h4 hslot v s
    rw [exec_busLoad_of_route rfl hroute, exec_busStore_of_route rfl hroute, deviceLoad, deviceStore, hload, hstore]
    exact ⟨holeLoad_answered _ 4 s, holeStore_answered _ s⟩
  · have hlen : lenOk n = true := lenOk_iff.2 (by omega)
    obtain ⟨hload, hstore⟩ := clint_at_hole hslot v
    rw [exec_busLoad_of_route hlen hroute, exec_busStore_of_route hlen hroute, deviceLoad, deviceStore, hload, hstore]
    exact ⟨holeLoad_answered _ n s, holeStore_answered _ s⟩
  · obtain ⟨hload, hstore⟩ := uart_at_hole hindex v
    rw [exec_busLoad_of_route rfl hroute, exec_busStore_of_route rfl hroute, deviceLoad, deviceStore, hload, hstore]
    exact ⟨holeLoad_answered _ 1 s, holeStore_answered _ s⟩
  · have hgate := sdhcGate_fails_at_hole hin hmounted hbeside hhole hp.symm
    rw [exec_busLoad_of_route (lenOk_iff.2 hn) hroute, exec_busStore_of_route (lenOk_iff.2 hn) hroute, deviceLoad, deviceStore,
      sdhcLoad, sdhcStore, hgate, hgate]
    exact ⟨failUnmapped_answered s, failUnmapped_answered s⟩

end Sys2Proof.Machine
end

section
/-! PROOFS. The Bus (40_bus.md): resolution and routes (O20, O27, O28), `add_device` (O26), and the accesses that complete (O22, O23). -/

namespace Sys2Proof.Machine

/-! ### O20, O27: resolution finds the one owner (40_bus.md R162, R165) -/

/-- Byte `a` lies in the entry's range. -/
def Mapping.HasByte (m : Mapping) (a : Nat) : Prop := m.base.toNat ≤ a ∧ a < m.base.toNat + m.size

/-- Two entries of an ordered map that share a byte are the same entry (40_bus.md R161). -/
theorem MapOk.eq_of_hasByte {map : List Mapping} {m m' : Mapping} {a : Nat} (hmap : MapOk map) (hm : m ∈ map) (hm' : m' ∈ map)
    (ha : m.HasByte a) (ha' : m'.HasByte a) : m = m' := by
  by_contra hne
  have hsymm : Std.Symm fun x y : Mapping => x.below y ∨ y.below x := ⟨fun _ _ h => h.symm⟩
  have hpairs : map.Pairwise fun x y : Mapping => x.below y ∨ y.below x := hmap.1.imp .inl
  have hapart := hpairs.forall hm hm' hne
  simp only [Mapping.below, Mapping.HasByte] at hapart ha ha'
  omega

/-- An access inside an entry of an ordered map resolves to that entry (40_bus.md R162). -/
theorem MapOk.resolve_eq {map : List Mapping} {m : Mapping} {addr n : Nat} (hmap : MapOk map) (hn : 1 ≤ n) (hm : m ∈ map)
    (hlo : m.base.toNat ≤ addr) (hhi : addr + n ≤ m.base.toNat + m.size) :
    resolve map addr n = some (m.dev, addr - m.base.toNat) := by
  have hend : ¬2 ^ 64 < addr + n := by
    have := (hmap.2 m hm).2
    omega
  unfold resolve
  rw [if_neg hend]
  cases hfind : map.find? fun m => m.holds addr n with
  | none =>
    have hnot := List.find?_eq_none.1 hfind m hm
    exact absurd (decide_eq_true ⟨hlo, hhi⟩) hnot
  | some m' =>
    have hholds : m'.base.toNat ≤ addr ∧ addr + n ≤ m'.base.toNat + m'.size :=
      by simpa [Mapping.holds] using List.find?_some hfind
    have heq : m' = m := hmap.eq_of_hasByte (a := addr) (List.mem_of_find?_eq_some hfind) hm
      ⟨hholds.1, by omega⟩ ⟨hlo, by omega⟩
    rw [heq]
    rfl

/-- Settles O20: the entry found is the one that holds the access, for two entries that hold it share a byte. -/
theorem resolutionFindsTheOneOwner : Obligations.ResolutionFindsTheOneOwner := by
  intro map addr n hmap hn
  exact ⟨fun m hm hlo hhi => hmap.resolve_eq hn hm hlo hhi, fun hout => resolve_eq_none_iff.2 (.inr hout),
    fun hend => resolve_eq_none_iff.2 (.inl hend)⟩

/-- Settles O27: `find_device` answers the resolution of the one byte at its address. -/
theorem findDeviceNamesTheOwner : Obligations.FindDeviceNamesTheOwner := by
  intro s addr hmap
  exact ⟨_, resolve (s.devmap 0) addr.toNat 1, rfl, rfl, fun m hm hlo hhi => hmap.resolve_eq (Nat.le_refl 1) hm hlo hhi,
    fun hout => resolve_eq_none_iff.2 (.inr hout)⟩

/-! ### O28: nested Buses (40_bus.md R166) -/

theorem resolveDeep_of_device {s : State} {b addr n off : Nat} {d : Device} (h : resolve (s.devmap b) addr n = some (d, off))
    (hd : ∀ id size, d ≠ .bus id size) (fuel : Nat) : resolveDeep s (fuel + 1) b addr n = some (d, off) := by
  unfold resolveDeep
  rw [h]
  cases d with
  | bus id size => exact absurd rfl (hd id size)
  | plic | clint | uart | sdhc | other => rfl

theorem resolveDeep_of_bus {s : State} {b addr n off id size : Nat}
    (h : resolve (s.devmap b) addr n = some (.bus id size, off)) (fuel : Nat) :
    resolveDeep s (fuel + 1) b addr n = resolveDeep s fuel id off n := by
  conv_lhs => unfold resolveDeep
  rw [h]

/-- A Bus with an entry is a listed one. -/
theorem State.bus_length_pos {s : State} {m : Mapping} {b : Nat} (h : m ∈ s.devmap b) : 0 < s.bus.length := by
  refine List.length_pos_iff.2 fun hnil => ?_
  rw [State.devmap, hnil] at h
  cases h

/-- Settles O28: the root resolves to the nested Bus with the outer base subtracted, and the nested Bus to the device. -/
theorem nestedBusTranslationsCompose : Obligations.NestedBusTranslationsCompose := by
  intro s addr n m m' id size hroot hnested hn hm hdev hlo hhi hm' hdev' hlo' hhi'
  have houter := hroot.resolve_eq hn hm hlo hhi
  have hinner := hnested.resolve_eq hn hm' hlo' hhi'
  obtain ⟨fuel, hfuel⟩ := Nat.exists_eq_succ_of_ne_zero (State.bus_length_pos hm).ne'
  rw [hdev] at houter
  rw [State.route, resolveDeep_of_bus houter, hfuel, resolveDeep_of_device hinner hdev']

/-! ### O26: `add_device` (40_bus.md R161) -/

theorem exec_busAddDevice_of_started {s : State} (h : s.started = true) (on : Nat) (base : DWord) (d : Device) :
    exec (.busAddDevice on base d) s = .refused .addDeviceAfterStart := if_pos h

section AddDevice

variable {s : State} {on : Nat} {base : DWord} {d : Device}

theorem exec_busAddDevice_of_badRange (h : s.started = false)
    (hbad : deviceSize s.cfg d = 0 ∨ 2 ^ 64 < base.toNat + deviceSize s.cfg d) :
    exec (.busAddDevice on base d) s = .fault .constructionBadRange := by
  show execBusAddDevice on base d s = _
  unfold execBusAddDevice
  rw [if_neg (by simp [h]), if_pos hbad]

theorem exec_busAddDevice_of_meet (h : s.started = false) (hsize : deviceSize s.cfg d ≠ 0)
    (hend : base.toNat + deviceSize s.cfg d ≤ 2 ^ 64) {m : Mapping} (hm : m ∈ s.devmap on)
    (hmeet : rangesMeet base.toNat (deviceSize s.cfg d) m.base.toNat m.size = true) :
    exec (.busAddDevice on base d) s = .fault .constructionOverlap := by
  show execBusAddDevice on base d s = _
  unfold execBusAddDevice
  rw [if_neg (by simp [h]), if_neg (by omega), if_pos (List.any_eq_true.2 ⟨m, hm, hmeet⟩)]

theorem exec_busAddDevice_of_apart (h : s.started = false) (hsize : deviceSize s.cfg d ≠ 0)
    (hend : base.toNat + deviceSize s.cfg d ≤ 2 ^ 64)
    (hapart : ∀ m ∈ s.devmap on, rangesMeet base.toNat (deviceSize s.cfg d) m.base.toNat m.size = false) :
    exec (.busAddDevice on base d) s = .next
      { s.setBus (cellSet [] on (insertMapping ⟨base, d, deviceSize s.cfg d⟩ (s.devmap on)) s.bus) with resp := .ok } := by
  show execBusAddDevice on base d s = _
  unfold execBusAddDevice
  rw [if_neg (by simp [h]), if_neg (by omega), if_neg (by simpa using hapart)]

end AddDevice

/-- Ranges that share a byte meet. -/
theorem rangesMeet_of_shared {b k b' k' a : Nat} (h : b ≤ a ∧ a < b + k) (h' : b' ≤ a ∧ a < b' + k') :
    rangesMeet b k b' k' = true := decide_eq_true (by omega)

/-- Ranges that are not empty and share no byte do not meet: the larger of the two bases would be shared. -/
theorem rangesMeet_eq_false {b k b' k' : Nat} (hk : k ≠ 0) (hk' : k' ≠ 0)
    (h : ∀ a, b ≤ a → a < b + k → ¬(b' ≤ a ∧ a < b' + k')) : rangesMeet b k b' k' = false := by
  refine decide_eq_false fun hmeet => ?_
  have hb := h b
  have hb' := h b'
  omega

theorem State.devmap_setBus_cellSet (s : State) (on b : Nat) (map : List Mapping) :
    (s.setBus (cellSet [] on map s.bus)).devmap b = if b = on then map else s.devmap b := cellGet_set [] s.bus on b map

/-- Settles O26: the checks of `add_device` in their order, and the entry it inserts. -/
theorem addDeviceExtendsTheMap : Obligations.AddDeviceExtendsTheMap := by
  intro s on base d
  refine ⟨fun h => exec_busAddDevice_of_started h on base d, exec_busAddDevice_of_badRange, ?_, ?_⟩
  · rintro h hsize hend ⟨m, hm, a, hlo, hhi, hlo', hhi'⟩
    exact exec_busAddDevice_of_meet h hsize hend hm (rangesMeet_of_shared ⟨hlo, hhi⟩ ⟨hlo', hhi'⟩)
  · intro h hsize hend hdisjoint
    have hapart : ∀ m ∈ s.devmap on, rangesMeet base.toNat (deviceSize s.cfg d) m.base.toNat m.size = false :=
      fun m hm => rangesMeet_eq_false hsize (hdisjoint m hm).1 (hdisjoint m hm).2
    have hmap := s.devmap_setBus_cellSet on
    refine ⟨_, exec_busAddDevice_of_apart h hsize hend hapart, rfl, h, ⟨rfl, rfl, fun b hb => ?_⟩, fun m => ?_, fun b hb => ?_,
      fun hok => ?_⟩
    · cases b with
      | bus => exact absurd (List.mem_singleton.2 rfl) hb
      | plic | clint | sdhc | uart | counters | draws => rfl
    · exact (hmap on _).trans (if_pos rfl) ▸ mem_insertMapping
    · exact (hmap b _).trans (if_neg hb)
    · exact (hmap on _).trans (if_pos rfl) ▸ hok.insert hsize hend hapart

/-! ### What a completed access leaves alone -/

/-- The configuration, the queue, the maps, the counters and the SDHC are as before. -/
structure Kept (s u : State) : Prop where
  cfg : u.cfg = s.cfg
  requests : u.requests = s.requests
  bus : u.bus = s.bus
  counters : u.counters = s.counters
  sdhc : u.sdhc = s.sdhc

theorem Kept.refl (s : State) : Kept s s := ⟨rfl, rfl, rfl, rfl, rfl⟩

theorem Kept.setPlic (s : State) (p : Plic) : Kept s (s.setPlic p) := ⟨rfl, rfl, rfl, rfl, rfl⟩

theorem Kept.setClint (s : State) (c : Clint) : Kept s (s.setClint c) := ⟨rfl, rfl, rfl, rfl, rfl⟩

theorem Kept.setUart (s : State) (u : Uart) : Kept s (s.setUart u) := ⟨rfl, rfl, rfl, rfl, rfl⟩

theorem Kept.refreshTime (s : State) : Kept s s.refreshTime := by constructor <;> simp

theorem Kept.writeCmp (s : State) (h : Nat) (v : DWord) : Kept s (s.writeCmp h v) := by constructor <;> simp

theorem Kept.writeTime (s : State) (v : DWord) : Kept s (s.writeTime v) := by constructor <;> simp

theorem Kept.checkInt {s u : State} (h : Kept s u) : Kept s u.checkInt := by
  obtain ⟨hcfg, hrequests, hbus, hcounters, hsdhc⟩ := h
  constructor <;> simpa

/-- The load answers `n` bytes, and nothing but the PLIC, the CLINT and the UART may have moved. -/
def LoadCompletes (n : Nat) (s : State) (r : Result) : Prop :=
  ∃ t v, r = .next t ∧ t.resp = .loaded n v ∧ v.toNat < 2 ^ (8 * n) ∧ t.started = true ∧
    t.cfg = s.cfg ∧ t.requests = s.requests ∧ t.bus = s.bus ∧ t.counters = s.counters ∧ t.sdhc = s.sdhc

/-- The store answers `Ok`, and no byte of the SD image or of the transfer buffer has moved. -/
def StoreCompletes (s : State) (r : Result) : Prop :=
  ∃ t, r = .next t ∧ t.resp = .ok ∧ t.started = true ∧
    t.cfg = s.cfg ∧ t.requests = s.requests ∧ t.bus = s.bus ∧ t.counters = s.counters ∧
    (∀ a, readByte t.sdhc.image a = readByte s.sdhc.image a) ∧ (∀ a, readByte t.sdhc.buf a = readByte s.sdhc.buf a)

section Answers

variable {s u : State}

theorem okLoad_completes {n : Nat} {v : DWord} (hv : v.toNat < 2 ^ (8 * n)) (h : Kept s u) : LoadCompletes n s (okLoad n v u) :=
  ⟨_, v, rfl, rfl, hv, rfl, h.cfg, h.requests, h.bus, h.counters, h.sdhc⟩

theorem okLoad_word_completes (w : Word) (h : Kept s u) : LoadCompletes 4 s (okLoad 4 (w.setWidth 64) u) :=
  okLoad_completes ((BitVec.toNat_setWidth_of_le (by decide)).trans_lt w.isLt) h

theorem okLoad_zero_completes (n : Nat) (h : Kept s u) : LoadCompletes n s (okLoad n 0#64 u) :=
  okLoad_completes (Nat.two_pow_pos _) h

theorem okStore_completes (h : Kept s u) : StoreCompletes s (okStore u) :=
  ⟨_, rfl, rfl, rfl, h.cfg, h.requests, h.bus, h.counters, fun _ => congrArg (readByte ·.image _) h.sdhc,
    fun _ => congrArg (readByte ·.buf _) h.sdhc⟩

/-- Under policy `zero` an access at a hole completes (30_encoding.md R150). -/
theorem holeLoad_completes {p : HolePolicy} (hp : p = .zero) (n : Nat) (s : State) : LoadCompletes n s (holeLoad p n s) :=
  hp ▸ okLoad_zero_completes n (.refl s)

theorem holeStore_completes {p : HolePolicy} (hp : p = .zero) (s : State) : StoreCompletes s (holeStore p s) :=
  hp ▸ okStore_completes (.refl s)

theorem inRange_of_le {size off n : Nat} (h : off + n ≤ size) (s : State) (r : Result) : inRange size off n s r = r := if_pos h

theorem LoadCompletes.inRange {size off m n : Nat} {r : Result} (hin : off + m ≤ size) (h : LoadCompletes n s r) :
    LoadCompletes n s (inRange size off m s r) := (inRange_of_le hin s r).symm ▸ h

theorem StoreCompletes.inRange {size off m : Nat} {r : Result} (hin : off + m ≤ size) (h : StoreCompletes s r) :
    StoreCompletes s (inRange size off m s r) := (inRange_of_le hin s r).symm ▸ h

end Answers

/-! ### PLIC -/

/-- A claim answers a source number, one of the 1024 of the pending map, or 0. -/
theorem Plic.best_lt (cfg : Config) (p : Plic) (c n : Nat) : p.best cfg c n < 1024 := by
  rcases p.best_spec cfg c n with ⟨hnone, -⟩ | ⟨-, -, heligible, -⟩
  · omega
  · exact Plic.eligible_lt heligible

theorem plicLoadRow_completes {slot : PlicSlot} {i : Instr} {s : State} (hrow : plicLoadRow slot = some i)
    (hin : slot.offset + 4 ≤ s.cfg.plicSize) (hzero : s.cfg.holePlic = .zero) : LoadCompletes 4 s (exec i s) := by
  cases slot <;> cases hrow <;> refine .inRange hin ?_
  case priority =>
    split_ifs
    · exact okLoad_zero_completes 4 (.refl s)
    · exact okLoad_word_completes _ (.refl s)
    · exact holeLoad_completes hzero 4 s
  case pending | enable | threshold =>
    split_ifs
    · exact holeLoad_completes hzero 4 s
    · exact okLoad_word_completes _ (.refl s)
  case claim c =>
    split_ifs
    · exact holeLoad_completes hzero 4 s
    · refine okLoad_completes ?_ (.setPlic s _)
      have hbest := s.plic.best_lt s.cfg c s.cfg.plicNumSources
      exact (Nat.mod_le _ _).trans_lt (hbest.trans (by decide))

theorem plicStoreRow_completes {slot : PlicSlot} {v : Word} {i : Instr} {s : State} (hrow : plicStoreRow v slot = some i)
    (hin : slot.offset + 4 ≤ s.cfg.plicSize) (hzero : s.cfg.holePlic = .zero) : StoreCompletes s (exec i s) := by
  cases slot <;> cases hrow <;> refine .inRange hin ?_
  case priority =>
    split_ifs
    · exact okStore_completes (.refl s)
    · exact okStore_completes (.setPlic s _)
    · exact holeStore_completes hzero s
  case pending =>
    split_ifs
    · exact holeStore_completes hzero s
    · exact okStore_completes (.refl s)
  case enable | threshold | claim =>
    split_ifs
    · exact holeStore_completes hzero s
    · exact okStore_completes (.setPlic s _)

/-- A register of the PLIC map has a load row and a store row (opcode_table.json). -/
theorem plicRows_of_fits {slot : PlicSlot} (h : slot.fits = true) (v : Word) :
    (∃ i, plicLoadRow slot = some i) ∧ ∃ i, plicStoreRow v slot = some i := by
  cases slot with
  | hole => cases h
  | priority | pending | enable | threshold | claim => exact ⟨⟨_, rfl⟩, _, rfl⟩

theorem plic_completes {off : Nat} {s : State} (h4 : off % 4 = 0) (hin : off + 4 ≤ s.cfg.plicSize)
    (hzero : s.cfg.holePlic = .zero) (v : DWord) :
    LoadCompletes 4 s (plicLoad off 4 s) ∧ StoreCompletes s (plicStore off 4 v s) := by
  rcases plicSlot_hole_or_at h4 with hhole | ⟨hfits, hoff⟩
  · obtain ⟨hload, hstore⟩ := plic_at_hole h4 hhole v s
    rw [hload, hstore]
    exact ⟨holeLoad_completes hzero 4 s, holeStore_completes hzero s⟩
  · obtain ⟨⟨i, hload⟩, j, hstore⟩ := plicRows_of_fits hfits (v.setWidth 32)
    rw [plicLoad_eq_exec_row h4 hload, plicStore_eq_exec_row h4 hstore]
    rw [← hoff] at hin
    exact ⟨plicLoadRow_completes hload hin hzero, plicStoreRow_completes hstore hin hzero⟩

/-! ### CLINT -/

theorem clintLoadRow_completes {slot : ClintSlot} {i : Instr} {s : State} (hrow : clintLoadRow slot = some i)
    (hin : slot.offset + slot.width ≤ s.cfg.clintSize) (hzero : s.cfg.holeClint = .zero) :
    LoadCompletes slot.width s (exec i s) := by
  cases slot <;> cases hrow <;> refine .inRange hin ?_
  case msip =>
    split
    · refine okLoad_completes (n := 4) ?_ (.refl s)
      split <;> decide
    · exact holeLoad_completes hzero 4 s
  case cmp64 =>
    split
    · exact okLoad_completes (BitVec.isLt _) (.refl s)
    · exact holeLoad_completes hzero 8 s
  case cmpLo | cmpHi =>
    split
    · exact okLoad_word_completes _ (.refl s)
    · exact holeLoad_completes hzero 4 s
  case time64 => exact okLoad_completes (BitVec.isLt _) (.refreshTime s)
  case timeLo | timeHi => exact okLoad_word_completes _ (.refreshTime s)

theorem clintStoreRow_completes {slot : ClintSlot} {v : DWord} {i : Instr} {s : State} (hrow : clintStoreRow v slot = some i)
    (hin : slot.offset + slot.width ≤ s.cfg.clintSize) (hzero : s.cfg.holeClint = .zero) : StoreCompletes s (exec i s) := by
  cases slot <;> cases hrow <;> refine .inRange hin ?_
  case msip =>
    split
    · exact okStore_completes (.setClint s _)
    · exact holeStore_completes hzero s
  case cmp64 | cmpLo | cmpHi =>
    split
    · exact okStore_completes (.writeCmp s _ _)
    · exact holeStore_completes hzero s
  case time64 | timeLo | timeHi => exact okStore_completes (.writeTime s _)

theorem clintRows_of_fits {slot : ClintSlot} (h : slot.fits = true) (v : DWord) :
    (∃ i, clintLoadRow slot = some i) ∧ ∃ i, clintStoreRow v slot = some i := by
  cases slot with
  | hole | refuse => cases h
  | msip | cmp64 | cmpLo | cmpHi | time64 | timeLo | timeHi => exact ⟨⟨_, rfl⟩, _, rfl⟩

/-- The shapes that the CLINT admits whatever the number of harts (20_memory.md R105). -/
theorem clintSlot_ne_refuse {off n : Nat} (h : (n = 4 ∧ off % 4 = 0) ∨ (n = 8 ∧ off % 8 = 0 ∧ 0x4000 ≤ off)) (harts : Nat) :
    clintSlot harts off n ≠ .refuse := by
  unfold clintSlot
  rcases h with h4 | ⟨rfl, h8, hlow⟩
  · rw [if_pos h4]
    split_ifs <;> nofun
  · rw [if_neg (by omega), if_pos ⟨rfl, h8⟩, if_neg (by omega)]
    split_ifs <;> nofun

theorem clint_completes {off n : Nat} {s : State} (hshape : (n = 4 ∧ off % 4 = 0) ∨ (n = 8 ∧ off % 8 = 0 ∧ 0x4000 ≤ off))
    (hin : off + n ≤ s.cfg.clintSize) (hzero : s.cfg.holeClint = .zero) (v : DWord) :
    LoadCompletes n s (clintLoad off n s) ∧ StoreCompletes s (clintStore off n v s) := by
  rcases clintSlot_hole_or_refuse_or_at s.cfg.numHarts off n with hhole | hrefuse | ⟨hfits, hoff, hwidth⟩
  · obtain ⟨hload, hstore⟩ := clint_at_hole hhole v
    rw [hload, hstore]
    exact ⟨holeLoad_completes hzero n s, holeStore_completes hzero s⟩
  · exact absurd hrefuse (clintSlot_ne_refuse hshape _)
  · obtain ⟨⟨i, hload⟩, j, hstore⟩ := clintRows_of_fits hfits v
    rw [clintLoad_eq_exec_row hload, clintStore_eq_exec_row hstore]
    have hrow : (clintSlot s.cfg.numHarts off n).offset + (clintSlot s.cfg.numHarts off n).width ≤ s.cfg.clintSize := by omega
    have hdone := clintLoadRow_completes hload hrow hzero
    rw [hwidth] at hdone
    exact ⟨hdone, clintStoreRow_completes hstore hrow hzero⟩

/-! ### UART -/

theorem uartLoaded_completes {s u : State} (b : Byte) (h : Kept s u) : LoadCompletes 1 s (uartLoaded b u) :=
  okLoad_completes ((BitVec.toNat_setWidth_of_le (by decide)).trans_lt b.isLt) h.checkInt

theorem uartStored_completes {s u : State} (h : Kept s u) : StoreCompletes s (uartStored u) := okStore_completes h.checkInt

theorem rbrLoad_completes (s : State) : LoadCompletes 1 s (rbrLoad s) := by
  unfold rbrLoad
  split
  · exact uartLoaded_completes _ (.refl s)
  · exact uartLoaded_completes _ (.setUart s _)

theorem uartLoadRow_completes {reg : UartReg} {i : Instr} {s : State} (hrow : uartLoadRow reg = some i)
    (hin : InUart s reg.number) : LoadCompletes 1 s (exec i s) := by
  cases reg <;> cases hrow <;> refine .inRange hin ?_
  case rbr | dll =>
    split
    · exact uartLoaded_completes _ (.refl s)
    · exact rbrLoad_completes s
  case ier | dlm | lsr | psd => split <;> exact uartLoaded_completes _ (.refl s)
  case iir | lcr | mcr | msr | scr => exact uartLoaded_completes _ (.refl s)

theorem uartStoreRow_completes {reg : UartReg} {v : Byte} {i : Instr} {s : State} (hrow : uartStoreRow v reg = some i)
    (hin : InUart s reg.number) : StoreCompletes s (exec i s) := by
  cases reg <;> cases hrow <;> refine .inRange hin ?_
  case thr | dll | ier | dlm => split <;> exact uartStored_completes (.setUart s _)
  case lsr | psd =>
    split
    · exact uartStored_completes (.setUart s _)
    · exact uartStored_completes (.refl s)
  case fcr | lcr | mcr | scr => exact uartStored_completes (.setUart s _)
  case msr => exact uartStored_completes (.refl s)

/-- Each register number reaches a register with a row, under both values of `DLAB` (30_encoding.md R140). -/
theorem uartLoadReg_row {k : Nat} (hk : k ≤ 7) (dlab : Bool) : ∃ reg i, uartLoadReg dlab k = some reg ∧ uartLoadRow reg = some i := by
  interval_cases k <;> cases dlab <;> exact ⟨_, _, rfl, rfl⟩

theorem uartStoreReg_row {k : Nat} (hk : k ≤ 7) (dlab : Bool) (v : Byte) :
    ∃ reg i, uartStoreReg dlab k = some reg ∧ uartStoreRow v reg = some i := by
  interval_cases k <;> cases dlab <;> exact ⟨_, _, rfl, rfl⟩

theorem uartIndex_eq_some {shift off k : Nat} (h : uartIndex shift off = some k) : k ≤ 7 ∧ k * 2 ^ shift = off := by
  unfold uartIndex at h
  split at h
  next hat =>
    obtain ⟨haligned, hlast⟩ := hat
    obtain rfl := Option.some.inj h
    exact ⟨hlast, Nat.div_mul_cancel (Nat.dvd_of_mod_eq_zero haligned)⟩
  next => cases h

theorem uart_completes {off : Nat} {s : State} (hin : off + 1 ≤ s.cfg.uartSize) (hzero : s.cfg.holeUart = .zero) (v : DWord) :
    LoadCompletes 1 s (uartLoad off 1 s) ∧ StoreCompletes s (uartStore off 1 v s) := by
  cases hindex : uartIndex s.cfg.uartRegShift off with
  | none =>
    obtain ⟨hload, hstore⟩ := uart_at_hole hindex v
    rw [hload, hstore]
    exact ⟨holeLoad_completes hzero 1 s, holeStore_completes hzero s⟩
  | some k =>
    obtain ⟨hk, rfl⟩ := uartIndex_eq_some hindex
    obtain ⟨lreg, i, hlreg, hload⟩ := uartLoadReg_row hk s.uart.dlab
    obtain ⟨sreg, j, hsreg, hstore⟩ := uartStoreReg_row hk s.uart.dlab (v.setWidth 8)
    rw [uartLoad_eq_exec_row hindex (Option.bind_eq_some_iff.2 ⟨lreg, hlreg, hload⟩),
      uartStore_eq_exec_row hindex (Option.bind_eq_some_iff.2 ⟨sreg, hsreg, hstore⟩)]
    exact ⟨uartLoadRow_completes hload (uartLoadReg_number hlreg ▸ hin),
      uartStoreRow_completes hstore (uartStoreReg_number hsreg ▸ hin)⟩

/-! ### SDHC -/

/-- `n` bytes make a value of `n` bytes (30_encoding.md R132). -/
theorem Sdhc.valueAt_lt (d : Sdhc) (off n : Nat) : (d.valueAt off n).toNat < 2 ^ (8 * n) := by
  induction n with
  | zero => exact Nat.one_pos
  | succ n ih =>
    have hlow : (d.valueAt off n).toNat < 2 ^ (8 * (n + 1)) := ih.trans_le (Nat.pow_le_pow_right (by decide) (by omega))
    have hbyte : ((d.byteAt (off + n)).setWidth 64 <<< (8 * n)).toNat < 2 ^ (8 * (n + 1)) := by
      have hlt := (d.byteAt (off + n)).isLt
      rw [BitVec.toNat_shiftLeft, BitVec.toNat_setWidth_of_le (by decide), Nat.shiftLeft_eq]
      refine (Nat.mod_le _ _).trans_lt ?_
      calc (d.byteAt (off + n)).toNat * 2 ^ (8 * n) < 2 ^ 8 * 2 ^ (8 * n) :=
            Nat.mul_lt_mul_of_pos_right hlt (Nat.two_pow_pos _)
        _ = 2 ^ (8 * (n + 1)) := by ring
    have hstep : d.valueAt off (n + 1) = d.valueAt off n ||| ((d.byteAt (off + n)).setWidth 64 <<< (8 * n)) := rfl
    rw [hstep, BitVec.toNat_or]
    exact Nat.or_lt_two_pow hlow hbyte

@[simp] theorem Sdhc.putRegByte_buf (d : Sdhc) (r : SdhcReg) (i : Nat) (b : Byte) : (d.putRegByte r i b).buf = d.buf := by
  cases r <;> rfl

@[simp] theorem Sdhc.putValueAt_buf (d : Sdhc) (off n : Nat) (v : DWord) : (d.putValueAt off n v).buf = d.buf := by
  refine loopTo_keeps (fun x : Sdhc => x.buf = d.buf) _ n d rfl fun j x hx => ?_
  show (x.putByteAt (off + j) (getByte v j)).buf = d.buf
  unfold Sdhc.putByteAt
  split <;> simp [hx]

theorem storeBytes_buf (s : State) (off n : Nat) (v : DWord) : (s.storeBytes off n v).sdhc.buf = s.sdhc.buf := by
  unfold State.storeBytes
  rw [State.setSdhc_sdhc]
  split <;> simp

/-- An access beside `BUFDATA` touches no byte of it. -/
theorem touchesBufdata_eq_false {off n : Nat} (h : off + n ≤ 0x20 ∨ 0x24 ≤ off) : touchesBufdata off n = false :=
  decide_eq_false (by omega)

theorem sdhcGate_open {off n : Nat} {s : State} (hopen : SdhcOpen s off n) (hbeside : off + n ≤ 0x20 ∨ 0x24 ≤ off) (r : Result) :
    sdhcGate off n s r = r := by
  obtain ⟨hin, hmounted, hhole⟩ := hopen
  have hzero : ¬(coversHole off n = true ∧ s.cfg.holeSdhc = .fail) := fun ⟨hcovers, hfail⟩ => by
    rw [hhole hcovers] at hfail
    cases hfail
  unfold sdhcGate
  rw [inRange_of_le hin, if_neg (by simp [hmounted]), if_neg (by simp [touchesBufdata_eq_false hbeside]), if_neg hzero]

theorem sdhcLoad_completes {off n : Nat} {s : State} (hopen : SdhcOpen s off n) (hbeside : off + n ≤ 0x20 ∨ 0x24 ≤ off) :
    LoadCompletes n s (sdhcLoad off n s) := by
  unfold sdhcLoad
  rw [sdhcGate_open hopen hbeside, if_neg (by simp [touchesBufdata_eq_false hbeside])]
  exact okLoad_completes (s.sdhc.valueAt_lt off n) (.refl s)

theorem sdhcStore_completes {off n : Nat} {s : State} (hopen : SdhcOpen s off n) (hbeside : off + n ≤ 0x20 ∨ 0x24 ≤ off)
    (hcommand : covers off n 0x0F = false) (v : DWord) : StoreCompletes s (sdhcStore off n v s) := by
  have hissue : (s.storeBytes off n v).storeCommand off n = .ok (s.storeBytes off n v) := if_neg (by simp [hcommand])
  unfold sdhcStore
  rw [sdhcGate_open hopen hbeside, if_neg (by simp [touchesBufdata_eq_false hbeside]), hissue]
  refine ⟨_, rfl, rfl, rfl, by simp, by simp, by simp, by simp, fun a => ?_, fun a => ?_⟩
  · simp [(storeBytes_side s off n v).1]
  · simp [storeBytes_buf]

/-! ### Opaque devices (40_bus.md R167, assumption log 8) -/

theorem lowBytes_eq {n : Nat} (hn : n = 1 ∨ n = 2 ∨ n = 4 ∨ n = 8) (v : DWord) :
    lowBytes n v = BitVec.ofNat 64 (v.toNat % 2 ^ (8 * n)) := by
  apply BitVec.eq_of_toNat_eq
  have hmask : 2 ^ (8 * n) - 1 < 2 ^ 64 := by rcases hn with rfl | rfl | rfl | rfl <;> decide
  have hlow : v.toNat % 2 ^ (8 * n) < 2 ^ 64 := (Nat.mod_le _ _).trans_lt v.isLt
  rw [lowBytes, BitVec.toNat_and, BitVec.toNat_ofNat, BitVec.toNat_ofNat, Nat.mod_eq_of_lt hmask, Nat.mod_eq_of_lt hlow,
    Nat.and_two_pow_sub_one_eq_mod]

theorem Answered.drawn (r : Response) (s : State) : Answered [.draws] r s (s.drawn.respond r) := by
  refine ⟨rfl, rfl, rfl, rfl, fun b hb => ?_⟩
  cases b with
  | draws => exact absurd (List.mem_singleton.2 rfl) hb
  | bus | plic | clint | sdhc | uart | counters => rfl

/-! ### O22, O23 -/

/-- Settles O22: each device's load by its rows and holes, and an opaque device's by its free value. -/
theorem busLoadCompletes : Obligations.BusLoadCompletes := by
  refine ⟨fun s addr n off hcases => ?_, fun s addr n id size off hn hroute => ?_⟩
  · show LoadCompletes n s _
    rcases hcases with ⟨hroute, rfl, h4, hin, hzero⟩ | ⟨hroute, hshape, hin, hzero⟩ | ⟨hroute, rfl, hin, hzero⟩ |
      ⟨hroute, hn, hbeside, hopen⟩
    · rw [exec_busLoad_of_route rfl hroute]
      exact (plic_completes h4 hin hzero 0#64).1
    · rw [exec_busLoad_of_route (lenOk_iff.2 (by omega)) hroute]
      exact (clint_completes hshape hin hzero 0#64).1
    · rw [exec_busLoad_of_route rfl hroute]
      exact (uart_completes hin hzero 0#64).1
    · rw [exec_busLoad_of_route (lenOk_iff.2 hn) hroute]
      exact sdhcLoad_completes hopen hbeside
  · rw [exec_busLoad_of_route (lenOk_iff.2 hn) hroute, deviceLoad, otherLoad]
    cases Config.otherLoad id off n s.draws with
    | ok v => exact ⟨_, rfl, rfl, lowBytes_eq hn v ▸ .drawn _ s⟩
    | fail => exact ⟨_, rfl, rfl, .drawn _ s⟩
    | refuse => rfl

/-- Settles O23: each device's store by its rows and holes, and an opaque device's by its free value. -/
theorem busStoreCompletes : Obligations.BusStoreCompletes := by
  refine ⟨fun s addr n off v hcases => ?_, fun s addr n id size off v hn hroute => ?_⟩
  · show StoreCompletes s _
    rcases hcases with ⟨hroute, rfl, h4, hin, hzero⟩ | ⟨hroute, hshape, hin, hzero⟩ | ⟨hroute, rfl, hin, hzero⟩ |
      ⟨hroute, hn, hbeside, hcommand, hopen⟩
    · rw [exec_busStore_of_route rfl hroute]
      exact (plic_completes h4 hin hzero v).2
    · rw [exec_busStore_of_route (lenOk_iff.2 (by omega)) hroute]
      exact (clint_completes hshape hin hzero v).2
    · rw [exec_busStore_of_route rfl hroute]
      exact (uart_completes hin hzero v).2
    · rw [exec_busStore_of_route (lenOk_iff.2 hn) hroute]
      exact sdhcStore_completes hopen hbeside hcommand v
  · rw [exec_busStore_of_route (lenOk_iff.2 hn) hroute, deviceStore, otherStore, lowBytes_eq hn]
    cases Config.otherStore id off n (BitVec.ofNat 64 (v.toNat % 2 ^ (8 * n))) s.draws with
    | ok => exact ⟨_, rfl, rfl, .drawn _ s⟩
    | fail => exact ⟨_, rfl, rfl, .drawn _ s⟩
    | refuse => rfl

end Sys2Proof.Machine
end

section
/-! PROOFS. The PLIC (41_plic.md): the register rows (O32 to O35), `claim` and `complete` (O36, O37), `raise_irq` and `update()`
(O38, O39), and the line as `int_check` and the core see it (O40). -/

namespace Sys2Proof.Machine

/-! ### Rows in range and their answers -/

theorem plicAt_of_le {slot : PlicSlot} {s : State} (h : slot.offset + 4 ≤ s.cfg.plicSize) (r : Result) : plicAt slot s r = r :=
  inRange_of_le h s r

theorem okLoad_answered (n : Nat) (v : DWord) (s : State) : ∃ t, okLoad n v s = .next t ∧ Answered [] (.loaded n v) s t :=
  ⟨_, rfl, .respond _ s⟩

theorem okStore_answered (s : State) : ∃ t, okStore s = .next t ∧ Answered [] .ok s t := ⟨_, rfl, .respond _ s⟩

/-- An answer after the PLIC alone was replaced. -/
theorem Answered.setPlic (r : Response) (p : Plic) (s : State) : Answered [.plic] r s ((s.setPlic p).respond r) := by
  refine ⟨rfl, rfl, rfl, rfl, fun b hb => ?_⟩
  cases b with
  | plic => exact absurd (List.mem_singleton.2 rfl) hb
  | bus | clint | sdhc | uart | counters | draws => rfl

/-! ### O32, O35: the priority and threshold registers (41_plic.md R181, R184) -/

/-- Writing entry `k` of a register array keeps the `p` low bits of the value, and every other entry. -/
theorem toNat_cellGet_set_lowBits (m : List (Nat × Word)) (k j p : Nat) (v : Word) :
    (cellGet 0#32 (cellSet 0#32 k (lowBits p v) m) j).toNat = if j = k then v.toNat % 2 ^ p else (cellGet 0#32 m j).toNat := by
  rw [cellGet_set, apply_ite BitVec.toNat, toNat_lowBits]

/-- Settles O32: source 0, a source of the PLIC, a hole. -/
theorem priorityRegisters : Obligations.PriorityRegisters := by
  intro s k v hin
  have hload : exec (.plicPriorityLd k) s = _ := plicAt_of_le hin _
  have hstore : exec (.plicPrioritySt k v) s = _ := plicAt_of_le hin _
  rw [hload, hstore]
  refine ⟨fun h0 => ?_, fun h1 hN => ?_, fun hN => ?_⟩
  · rw [if_pos h0, if_pos h0]
    exact ⟨okLoad_answered _ _ s, okStore_answered s⟩
  · have h0 : k ≠ 0 := by omega
    rw [if_neg h0, if_neg h0, if_pos hN, if_pos hN]
    exact ⟨okLoad_answered _ _ s, _, rfl, .setPlic _ _ s, fun j => toNat_cellGet_set_lowBits _ _ _ _ _,
      Plic.update_current _ _, rfl, rfl, rfl, rfl⟩
  · have h0 : k ≠ 0 := by omega
    rw [if_neg h0, if_neg h0, if_neg hN.not_ge, if_neg hN.not_ge]
    exact ⟨holeLoad_answered _ 4 s, holeStore_answered _ s⟩

/-- Settles O35: a context of the PLIC, a hole. -/
theorem thresholdRegisters : Obligations.ThresholdRegisters := by
  intro s c v hin
  have hload : exec (.plicThresholdLd c) s = _ := plicAt_of_le hin _
  have hstore : exec (.plicThresholdSt c v) s = _ := plicAt_of_le hin _
  rw [hload, hstore]
  refine ⟨fun hc => ?_, fun hc => ?_⟩
  · rw [if_neg hc.not_ge, if_neg hc.not_ge]
    exact ⟨okLoad_answered _ _ s, _, rfl, .setPlic _ _ s, fun j => toNat_cellGet_set_lowBits _ _ _ _ _,
      Plic.update_current _ _, rfl, rfl, rfl, rfl⟩
  · rw [if_pos hc, if_pos hc]
    exact ⟨holeLoad_answered _ 4 s, holeStore_answered _ s⟩

/-! ### O33, O34: the pending and enable words (41_plic.md R182, R183) -/

/-- A load of a bitmap word answers the bits of the sources 1..N. -/
theorem okLoad_bitmapWord_answered {s : State} (hN : s.cfg.plicNumSources ≤ 1023) (m : Bitmap) (w : Nat) :
    ∃ t r, okLoad 4 ((bitmapWord s.cfg.plicNumSources m w).setWidth 64) s = .next t ∧ Answered [] (.loaded 4 r) s t ∧
      ∀ b, r.getLsbD b = (decide (b < 32) && decide (IsSource s.cfg (32 * w + b)) && m.getLsbD (32 * w + b)) := by
  refine ⟨_, _, rfl, .respond _ s, fun b => ?_⟩
  rw [BitVec.getLsbD_setWidth, getLsbD_bitmapWord _ _ _ _ hN]
  by_cases hb : b < 32
  · have hb64 : b < 64 := by omega
    simp [hb64]
  · simp [hb]

/-- Settles O33: a word of the pending map, a hole. -/
theorem pendingWords : Obligations.PendingWords := by
  intro s w v hin hN
  have hload : exec (.plicPendingLd w) s = _ := plicAt_of_le hin _
  have hstore : exec (.plicPendingSt w v) s = _ := plicAt_of_le hin _
  rw [hload, hstore]
  refine ⟨fun hw => ?_, fun hw => ?_⟩
  · rw [if_neg hw.not_gt, if_neg hw.not_gt]
    exact ⟨okLoad_bitmapWord_answered hN _ w, okStore_answered s⟩
  · rw [if_pos hw, if_pos hw]
    exact ⟨holeLoad_answered _ 4 s, holeStore_answered _ s⟩

/-- Writing word `w` of context `c`'s enable map sets the bits of the sources in that word and no other bit of any context. -/
theorem getLsbD_cellGet_set_putBitmapWord {n : Nat} (hn : n ≤ 1023) (m : List (Nat × Bitmap)) (c w : Nat) (v : Word) (c' k : Nat) :
    (cellGet 0#1024 (cellSet 0#1024 c (putBitmapWord n (cellGet 0#1024 m c) w v) m) c').getLsbD k =
      if c' = c ∧ k / 32 = w ∧ (1 ≤ k ∧ k ≤ n) then v.getLsbD (k % 32) else (cellGet 0#1024 m c').getLsbD k := by
  rw [cellGet_set]
  by_cases hc : c' = c
  · subst hc
    rw [if_pos rfl, getLsbD_putBitmapWord _ _ _ _ _ hn]
    simp only [true_and]
  · rw [if_neg hc, if_neg fun h => hc h.1]

/-- Settles O34: a word of a context's enable map, a hole. -/
theorem enableWords : Obligations.EnableWords := by
  intro s c w v hin hN
  have hload : exec (.plicEnableLd c w) s = _ := plicAt_of_le hin _
  have hstore : exec (.plicEnableSt c w v) s = _ := plicAt_of_le hin _
  rw [hload, hstore]
  refine ⟨fun hc hw => ?_, fun hhole => ?_⟩
  · have hthere : ¬(s.cfg.plicNumContexts ≤ c ∨ s.cfg.plicNumSources < 32 * w) := by omega
    rw [if_neg hthere, if_neg hthere]
    exact ⟨okLoad_bitmapWord_answered hN _ w, _, rfl, .setPlic _ _ s,
      fun c' k => getLsbD_cellGet_set_putBitmapWord hN _ _ _ _ _ _, Plic.update_current _ _, rfl, rfl, rfl, rfl⟩
  · rw [if_pos hhole, if_pos hhole]
    exact ⟨holeLoad_answered _ 4 s, holeStore_answered _ s⟩

/-! ### O36, O37: `claim` and `complete` (41_plic.md R193, R194) -/

/-- `claim(c)` finds nothing exactly when no source is eligible for `c`. -/
theorem Plic.best_eq_zero_iff {cfg : Config} {p : Plic} {c : Nat} :
    p.best cfg c cfg.plicNumSources = 0 ↔ ∀ k, IsSource cfg k → ¬p.Eligible cfg c k := by
  rcases p.best_spec cfg c cfg.plicNumSources with ⟨h0, hnone⟩ | ⟨h1, hN, he, -⟩
  · refine iff_of_true h0 fun k hk hek => ?_
    rw [← Plic.eligible_iff, hnone k hk.1 hk.2] at hek
    cases hek
  · exact iff_of_false (by omega) fun hnone => hnone _ ⟨h1, hN⟩ ((Plic.eligible_iff _ _ _ _).1 he)

/-- No eligible source has a higher priority than the one `claim(c)` picks, and none of equal priority a lower number. -/
theorem Plic.best_maximal {cfg : Config} {p : Plic} {c j : Nat} (hj : IsSource cfg j) (he : p.Eligible cfg c j) :
    (p.prio j).toNat < (p.prio (p.best cfg c cfg.plicNumSources)).toNat ∨
      (p.prio j = p.prio (p.best cfg c cfg.plicNumSources) ∧ p.best cfg c cfg.plicNumSources ≤ j) := by
  rcases p.best_spec cfg c cfg.plicNumSources with ⟨h0, -⟩ | ⟨-, -, -, hmax⟩
  · exact absurd he (Plic.best_eq_zero_iff.1 h0 j hj)
  · exact hmax j hj.1 hj.2 ((Plic.eligible_iff _ _ _ _).2 he)

@[simp] theorem Plic.setClaimed_pending (p : Plic) (c k : Nat) (b : Bool) : (p.setClaimed c k b).pending = p.pending := rfl

/-- `claim(c)` clears the pending bit of the source it picks and no other. -/
theorem Plic.claim_pending_eq {cfg : Config} {p : Plic} {c : Nat} (h0 : p.best cfg c cfg.plicNumSources ≠ 0) (j : Nat) :
    (p.claim cfg c).pending.getLsbD j = (p.pending.getLsbD j && decide (j ≠ p.best cfg c cfg.plicNumSources)) := by
  have hlt := p.best_lt cfg c cfg.plicNumSources
  rw [Plic.claim_of_some rfl h0, Plic.update_pending, Plic.setPending_bit, Plic.setClaimed_pending]
  by_cases hj : j = p.best cfg c cfg.plicNumSources <;> simp [hj, hlt]

theorem Plic.claim_current {cfg : Config} {p : Plic} {c : Nat} (h0 : p.best cfg c cfg.plicNumSources ≠ 0) :
    (p.claim cfg c).LinesCurrent cfg := by
  rw [Plic.claim_of_some rfl h0]
  exact Plic.update_current _ _

/-- Settles O36: no eligible source, the best of the eligible ones, a hole. -/
theorem claimTakesTheBestEligibleSource : Obligations.ClaimTakesTheBestEligibleSource := by
  intro s c hin
  have hload : exec (.plicClaimLd c) s = _ := plicAt_of_le hin _
  rw [hload]
  refine ⟨fun hc hnone => ?_, fun hc ⟨k, hk, hek⟩ => ?_, fun hc => ?_⟩
  · have h0 := Plic.best_eq_zero_iff.2 hnone
    rw [if_neg hc.not_ge, Plic.claim_of_none h0, h0]
    exact okLoad_answered 4 0#64 s
  · have h0 : s.plic.best s.cfg c s.cfg.plicNumSources ≠ 0 := fun h => Plic.best_eq_zero_iff.1 h k hk hek
    obtain ⟨hsource, heligible⟩ := Plic.best_source h0
    obtain ⟨hprio, henabled, hthresh⟩ := Plic.claim_rest s.cfg s.plic c
    rw [if_neg hc.not_ge]
    refine ⟨_, s.plic.best s.cfg c s.cfg.plicNumSources, rfl, .setPlic _ _ s, hsource, heligible,
      fun j hj hej => Plic.best_maximal hj hej, fun c' j => ?_, Plic.claim_pending_eq h0, Plic.claim_current h0,
      hprio, henabled, hthresh⟩
    rw [Bool.eq_iff_iff, State.respond_plic, State.setPlic_plic, Plic.claim_claimed_bit]
    grind
  · rw [if_pos hc]
    exact holeLoad_answered _ 4 s

/-- Settles O37: the context's own claim, any other value, a hole. -/
theorem completeReleasesTheClaim : Obligations.CompleteReleasesTheClaim := by
  intro s c v hin
  have hstore : exec (.plicCompleteSt c v) s = _ := plicAt_of_le hin _
  rw [hstore]
  refine ⟨fun hc hsource hclaim => ?_, fun hc hnot => ?_, fun hc => ?_⟩
  · obtain ⟨hprio, henabled, hthresh, hpending⟩ := Plic.complete_rest s.cfg s.plic c v.toNat
    have hcurrent : (s.plic.complete s.cfg c v.toNat).LinesCurrent s.cfg := by
      rw [Plic.complete_of_claimed hsource hclaim]
      exact Plic.update_current _ _
    rw [if_neg hc.not_ge]
    refine ⟨_, rfl, .setPlic _ _ s, fun c' j => ?_, hcurrent, hpending, hprio, henabled, hthresh⟩
    rw [Bool.eq_iff_iff, State.respond_plic, State.setPlic_plic, Plic.complete_claimed_bit]
    simp only [Bool.and_eq_true, decide_eq_true_eq, and_iff_right hsource]
  · rw [if_neg hc.not_ge, Plic.complete_of_not hnot]
    exact okStore_answered s
  · rw [if_pos hc]
    exact holeStore_answered _ s

/-! ### O38, O39: `raise_irq` and `update()` (41_plic.md R190, R191) -/

/-- On a source of the PLIC `raise_irq` writes exactly its pending bit. -/
theorem Plic.raise_pending_of_source {cfg : Config} (hN : cfg.plicNumSources ≤ 1023) {k : Nat} (hk : IsSource cfg k) (p : Plic)
    (l : Bool) (j : Nat) : (p.raise cfg k l).pending.getLsbD j = if j = k then l else p.pending.getLsbD j := by
  have hlt : k < 1024 := by have := hk.2; omega
  simp only [Plic.raise_pending_bit, hlt, and_true]

/-- Settles O38: setting the source, withdrawing it, and a number that is no source. -/
theorem raiseIrqSetsOrWithdrawsTheSource : Obligations.RaiseIrqSetsOrWithdrawsTheSource := by
  intro s k hN
  refine ⟨fun h1 hk => ?_, fun hnot l => if_pos (by omega)⟩
  have hraise (l : Bool) : exec (.plicRaiseIrq k l) s = _ := if_neg (by omega)
  have hpending := s.plic.raise_pending_of_source hN ⟨h1, hk⟩
  rw [hraise, hraise]
  constructor
  · refine ⟨_, rfl, .setPlic _ _ s, fun j => ?_, rfl, Plic.raise_current _ _ _ _, Plic.raise_rest _ _ _ _⟩
    refine (hpending true j).trans ?_
    by_cases hj : j = k <;> simp [hj]
  · refine ⟨_, rfl, .setPlic _ _ s, fun j => ?_, fun c j => ?_, Plic.raise_current _ _ _ _, Plic.raise_rest _ _ _ _⟩
    · refine (hpending false j).trans ?_
      by_cases hj : j = k <;> simp [hj]
    · refine (Plic.raise_claimed_bit _ _ _ _ _ _).trans ?_
      simp only [true_and]

/-- A source of priority 0 is above no threshold. -/
theorem Plic.not_eligible_of_prio_zero {p : Plic} {k : Nat} (h : p.prio k = 0#32) (cfg : Config) (c : Nat) :
    ¬p.Eligible cfg c k := by
  rintro ⟨-, -, -, hlt⟩
  rw [h] at hlt
  exact Nat.not_lt_zero _ hlt

/-- Settles O39: the lines are current after `update()`, which writes nothing else. -/
theorem updateComputesEligibility : Obligations.UpdateComputesEligibility := by
  intro s
  refine ⟨_, rfl, .setPlic _ _ s, fun c hc => ?_, rfl, rfl, rfl, rfl, rfl, fun c k h => Plic.not_eligible_of_prio_zero h _ c⟩
  refine (Plic.update_current s.cfg s.plic c hc).trans ?_
  simp only [IsSource, and_assoc, Plic.update_Eligible]
  rfl

/-! ### O40: the line (41_plic.md R192, 60_exceptions.md R376) -/

/-- On current lines a context's line says whether `claim` would return a source (41_plic.md R198 law 6). -/
theorem Plic.lineOf_iff_best_ne_zero {cfg : Config} {p : Plic} {c : Nat} (h : p.LinesCurrent cfg) (hc : c < cfg.plicNumContexts) :
    p.lineOf c = true ↔ p.best cfg c cfg.plicNumSources ≠ 0 := by
  rw [h c hc, Ne, Plic.best_eq_zero_iff]
  push Not
  rfl

/-- The source number a claim answers is 0 as a 64-bit word only if it is 0. -/
theorem ofNat_best_ne_zero_iff {cfg : Config} {p : Plic} {c n : Nat} : BitVec.ofNat 64 (p.best cfg c n) ≠ 0#64 ↔ p.best cfg c n ≠ 0 := by
  have hlt := p.best_lt cfg c n
  bv_omega

/-- Of a valid `CTX_OF` every entry's context exists, and a look-up of its (hart, mode) pair finds that entry (00_scope.md R5). -/
theorem Config.ctxOf_of_mem {cfg : Config} (hvalid : cfg.ctxValid = true) {e : (Nat × Mode) × Nat} (he : e ∈ cfg.ctxOf) :
    e.2 < cfg.plicNumContexts ∧ cfg.ctxOf.find? (fun x => x.1 == e.1) = some e := by
  simp only [Config.ctxValid, Bool.and_eq_true, decide_eq_true_eq, List.all_eq_true] at hvalid
  obtain ⟨⟨hpairs, -⟩, hrange⟩ := hvalid
  refine ⟨(hrange e he).2, ?_⟩
  obtain ⟨x, hx⟩ := Option.isSome_iff_exists.1 (List.find?_isSome (p := fun x => x.1 == e.1).2 ⟨e, he, BEq.rfl⟩)
  have hkey : x.1 = e.1 := by simpa using List.find?_some hx
  rw [hx, List.inj_on_of_nodup_map hpairs (List.mem_of_find?_eq_some hx) he hkey]

theorem State.externalPending_of_mem {s : State} (hvalid : s.cfg.ctxValid = true) {h c : Nat} {m : Mode}
    (hmem : ((h, m), c) ∈ s.cfg.ctxOf) : s.externalPending h m = some (s.plic.lineOf c) :=
  congrArg (Option.map _) (Config.ctxOf_of_mem hvalid hmem).2

theorem State.externalPending_eq_none {s : State} {h : Nat} {m : Mode} (hnone : ∀ c, ((h, m), c) ∉ s.cfg.ctxOf) :
    s.externalPending h m = none := by
  refine congrArg (Option.map _) (List.find?_eq_none.2 fun e he hkey => hnone e.2 ?_)
  rwa [← eq_of_beq hkey]

theorem exec_plicIntCheck_of_context {s : State} {c : Nat} (hc : c < s.cfg.plicNumContexts) :
    exec (.plicIntCheck c) s = .next (s.respond (.level (s.plic.lineOf c))) := if_neg hc.not_ge

/-- Settles O40: the line, the claim it announces, and the core's view of it through `CTX_OF`. -/
theorem intCheckReturnsTheLine : Obligations.IntCheckReturnsTheLine := by
  intro s c
  refine ⟨fun hc => ⟨_, exec_plicIntCheck_of_context hc, .respond _ s⟩, fun hc hcurrent hin => ?_, fun hc => if_pos hc,
    fun h m hvalid hmem => ?_, fun h m hnone => State.externalPending_eq_none hnone⟩
  · have hload : exec (.plicClaimLd c) s = _ := plicAt_of_le hin _
    rw [hload, if_neg hc.not_ge]
    exact ⟨_, _, rfl, rfl, (Plic.lineOf_iff_best_ne_zero hcurrent hc).trans ofNat_best_ne_zero_iff.symm⟩
  · have hc := (Config.ctxOf_of_mem hvalid hmem).1
    exact ⟨_, _, exec_plicIntCheck_of_context hc, rfl, State.externalPending_of_mem hvalid hmem⟩

end Sys2Proof.Machine
end

section
/-! PROOFS. The CLINT (42_clint.md): outputs (O7), its register rows (O41 to O45), `increment` (O46), and which transactions move the
time (O19) and `MSIP_out` (O47). -/

namespace Sys2Proof.Machine

/-! ### `sync(h)` and `sync_all()` (42_clint.md R237) -/

section Sync

variable (cfg : Config) (c : Clint)

theorem Clint.sync_msipOutOf (h j : Nat) : (c.sync cfg h).msipOutOf j = if j = h then c.msipOf h else c.msipOutOf j :=
  cellGet_set _ _ _ _ _

theorem Clint.sync_mtipOutOf (h j : Nat) :
    (c.sync cfg h).mtipOutOf j = if j = h then decide ((c.cmp cfg h).toNat ≤ c.mtime.toNat) else c.mtipOutOf j :=
  cellGet_set _ _ _ _ _

/-- `sync(h)` writes outputs and reads none, so `sync_all()` is one loop over each output array. -/
theorem Clint.syncAll_eq : c.syncAll cfg = { c with
    msipOut := loopTo (fun h m => cellSet false h (c.msipOf h) m) cfg.numHarts c.msipOut
    mtipOut := loopTo (fun h m => cellSet false h (c.timerDue cfg h) m) cfg.numHarts c.mtipOut } := by
  unfold Clint.syncAll
  induction cfg.numHarts with
  | zero => rfl
  | succ n ih =>
    rw [loopTo_succ, ih]
    rfl

@[simp] theorem Clint.syncAll_mtime : (c.syncAll cfg).mtime = c.mtime := by rw [Clint.syncAll_eq]
@[simp] theorem Clint.syncAll_mtimecmp : (c.syncAll cfg).mtimecmp = c.mtimecmp := by rw [Clint.syncAll_eq]
@[simp] theorem Clint.syncAll_msip : (c.syncAll cfg).msip = c.msip := by rw [Clint.syncAll_eq]
@[simp] theorem Clint.syncAll_rtLast : (c.syncAll cfg).rtLast = c.rtLast := by rw [Clint.syncAll_eq]

/-- After `sync_all()` every hart's outputs are current. -/
theorem Clint.syncAll_current : (c.syncAll cfg).OutputsCurrent cfg := by
  intro h hh
  rw [Clint.syncAll_eq]
  exact ⟨(cellGet_loop _ _ _ _ _).trans (if_pos hh), (cellGet_loop _ _ _ _ _).trans (if_pos hh)⟩

end Sync

/-- `sync(h)` makes the outputs current if those of the other harts are. -/
theorem Clint.sync_current {cfg : Config} {c : Clint} {h : Nat}
    (hc : ∀ j, j < cfg.numHarts → j ≠ h →
      c.msipOutOf j = c.msipOf j ∧ c.mtipOutOf j = decide ((c.cmp cfg j).toNat ≤ c.mtime.toNat)) :
    (c.sync cfg h).OutputsCurrent cfg := by
  intro j hj
  rw [Clint.sync_msipOutOf, Clint.sync_mtipOutOf]
  by_cases hjh : j = h
  · subst hjh
    rw [if_pos rfl, if_pos rfl]
    exact ⟨rfl, rfl⟩
  · rw [if_neg hjh, if_neg hjh]
    exact hc j hj hjh

/-! ### O7: the outputs stay current -/

/-- A write of one hart's `msip` or `mtimecmp` ends in `sync` of that hart, a change of the time in `sync_all()`. -/
theorem ClintMove.outputsCurrent {cfg : Config} {c e : Clint} (h : ClintMove cfg c e) (hc : c.OutputsCurrent cfg) :
    e.OutputsCurrent cfg := by
  cases h with
  | same => exact hc
  | msip h b =>
    refine Clint.sync_current fun j hj hne => ?_
    have hkept : ({ c with msip := cellSet false h b c.msip } : Clint).msipOf j = c.msipOf j := cellGet_set_other _ _ _ _ _ hne
    rw [hkept]
    exact hc j hj
  | cmp h v =>
    refine Clint.sync_current fun j hj hne => ?_
    have hkept : ({ c with mtimecmp := cellSet cfg.clintMtimecmpInit h v c.mtimecmp } : Clint).cmp cfg j = c.cmp cfg j :=
      cellGet_set_other _ _ _ _ _ hne
    rw [hkept]
    exact hc j hj
  | cmpRefresh | refresh | time => exact Clint.syncAll_current _ _

/-- Settles O7: every transaction that writes what the outputs depend on ends in `sync(h)` or `sync_all()`. -/
theorem clintOutputsStayCurrent : Obligations.ClintOutputsStayCurrent := by
  intro s t hs h
  refine step_keeps (P := fun s => s.clint.OutputsCurrent s.cfg) (fun _ _ hs => hs) (fun s t hs he => ?_) h hs
  rw [he.cfg]
  exact he.clint.outputsCurrent hs

/-! ### The refresh of the time in real-time mode (42_clint.md R241) -/

/-- `e` is `c` after `rt_refresh(); sync_all()`: the time is a draw not below the last one, and the outputs are current. -/
structure Clint.Refreshed (cfg : Config) (c e : Clint) : Prop where
  notBefore : c.rtLast.toNat ≤ e.mtime.toNat
  last : e.rtLast = e.mtime
  current : e.OutputsCurrent cfg
  msip : e.msip = c.msip
  mtimecmp : e.mtimecmp = c.mtimecmp

theorem State.refreshed (s : State) : s.clint.Refreshed s.cfg s.rtRefresh.syncAll.clint := by
  obtain ⟨d, hd, hclint⟩ := s.rtRefresh_clint
  rw [State.syncAll_clint, State.rtRefresh_cfg, hclint]
  exact ⟨by rw [Clint.syncAll_mtime]; exact hd, by simp, Clint.syncAll_current _ _, by simp, by simp⟩

/-- An answer after the CLINT alone was replaced. -/
theorem Answered.setClint (r : Response) (c : Clint) (s : State) : Answered [.clint] r s ((s.setClint c).respond r) := by
  refine ⟨rfl, rfl, rfl, rfl, fun b hb => ?_⟩
  cases b with
  | clint => exact absurd (List.mem_singleton.2 rfl) hb
  | bus | plic | sdhc | uart | counters | draws => rfl

/-- An answer after the CLINT was replaced and its time refreshed, for which one free value is drawn. -/
theorem Answered.refreshed (r : Response) (c : Clint) (s : State) :
    Answered [.clint, .draws] r s ((s.setClint c).rtRefresh.syncAll.respond r) := by
  refine ⟨rfl, rfl, rfl, rfl, fun b hb => ?_⟩
  cases b with
  | clint | draws => simp at hb
  | bus | plic | sdhc | uart | counters => rfl

theorem State.refreshTime_of_tick {s : State} (h : s.cfg.clintRealtime = false) : s.refreshTime = s := by
  simp [State.refreshTime, h]

theorem State.refreshTime_of_realtime {s : State} (h : s.cfg.clintRealtime = true) : s.refreshTime = s.rtRefresh.syncAll := by
  simp [State.refreshTime, h]

/-! ### Rows in range, and halves of a register -/

theorem clintAt_of_le {slot : ClintSlot} {n : Nat} {s : State} (h : slot.offset + n ≤ s.cfg.clintSize) (r : Result) :
    clintAt slot n s r = r := inRange_of_le h s r

/-- The two halves as a 4-byte load returns them (42_clint.md R235). -/
theorem lowHalf_setWidth (x : DWord) : (lowHalf x).setWidth 64 = BitVec.ofNat 64 (x.toNat % 2 ^ 32) := by
  rw [← toNat_lowHalf, BitVec.ofNat_toNat]

theorem highHalf_setWidth (x : DWord) : (highHalf x).setWidth 64 = BitVec.ofNat 64 (x.toNat / 2 ^ 32) := by
  rw [← toNat_highHalf, BitVec.ofNat_toNat]

/-- A store to the low half keeps the high one, and the other way round. -/
theorem eq_highHalf_append {new x : DWord} {v : Word} (h : new.toNat = x.toNat / 2 ^ 32 * 2 ^ 32 + v.toNat) :
    new = highHalf x ++ v := BitVec.eq_of_toNat_eq (by rw [h, toNat_halves, toNat_highHalf])

theorem eq_append_lowHalf {new x : DWord} {v : Word} (h : new.toNat = v.toNat * 2 ^ 32 + x.toNat % 2 ^ 32) :
    new = v ++ lowHalf x := BitVec.eq_of_toNat_eq (by rw [h, toNat_halves, toNat_lowHalf])

/-! ### O41: the software-interrupt registers (42_clint.md R233) -/

/-- Settles O41: a present hart's register, whose store ends in `sync(h)`, and a hole. -/
theorem msipRegisters : Obligations.MsipRegisters := by
  intro s h v hin
  have hload : exec (.clintMsipLd h) s = _ := clintAt_of_le hin _
  have hstore : exec (.clintMsipSt h v) s = _ := clintAt_of_le hin _
  rw [hload, hstore]
  refine ⟨fun hh => ?_, fun hh => ?_⟩
  · rw [if_pos hh, if_pos hh]
    refine ⟨okLoad_answered 4 _ s, _, rfl, .setClint _ _ s, fun j => cellGet_set _ _ _ _ _, fun j => ?_,
      fun j => Clint.sync_mtipOutOf _ _ _ _, rfl, rfl, rfl⟩
    refine (Clint.sync_msipOutOf _ _ _ _).trans ?_
    rw [Clint.msipOf, cellGet_set_same]
    rfl
  · rw [if_neg hh.not_gt, if_neg hh.not_gt]
    exact ⟨holeLoad_answered _ 4 s, holeStore_answered _ s⟩

/-! ### O42, O43: the compare registers (42_clint.md R234, R235) -/

/-- What a present hart's register or a hole answers to a load. -/
theorem okLoad_or_hole_answered (p : Prop) [Decidable p] (n : Nat) (v : DWord) (policy : HolePolicy) (s : State) :
    ∃ t, (if p then okLoad n v s else holeLoad policy n s) = .next t ∧
      Answered [] (if p then .loaded n v else holeLoadAnswer n policy) s t := by
  split
  · exact okLoad_answered n v s
  · exact holeLoad_answered policy n s

/-- Settles O42: each row is a register's load or a hole's. -/
theorem mtimecmpLoads : Obligations.MtimecmpLoads := by
  refine fun s h => ⟨fun hin => ?_, fun hin => ?_, fun hin => ?_⟩
  · have hload : exec (.clintMtimecmpLd64 h) s = _ := clintAt_of_le hin _
    rw [hload]
    exact okLoad_or_hole_answered _ 8 _ _ s
  · have hload : exec (.clintMtimecmpLdLo h) s = _ := clintAt_of_le hin _
    rw [hload, lowHalf_setWidth]
    exact okLoad_or_hole_answered _ 4 _ _ s
  · have hload : exec (.clintMtimecmpLdHi h) s = _ := clintAt_of_le hin _
    rw [hload, highHalf_setWidth]
    exact okLoad_or_hole_answered _ 4 _ _ s

/-- In tick mode a write of `mtimecmp[h]` is followed by `sync(h)`. -/
theorem State.writeCmp_of_tick {s : State} (htick : s.cfg.clintRealtime = false) (h : Nat) (v : DWord) :
    s.writeCmp h v = s.setClint
      (({ s.clint with mtimecmp := cellSet s.cfg.clintMtimecmpInit h v s.clint.mtimecmp } : Clint).sync s.cfg h) :=
  if_neg (by simp [htick])

/-- In real-time mode it is followed by a refresh. -/
theorem State.writeCmp_of_realtime {s : State} (hrt : s.cfg.clintRealtime = true) (h : Nat) (v : DWord) :
    s.writeCmp h v =
      (s.setClint { s.clint with mtimecmp := cellSet s.cfg.clintMtimecmpInit h v s.clint.mtimecmp }).rtRefresh.syncAll :=
  if_pos hrt

/-- Settles O43: the three rows are one write of the new value, then `sync(h)` or the refresh; and a hole. -/
theorem mtimecmpStores : Obligations.MtimecmpStores := by
  intro s h i new hrow
  have hexec : exec i s = if h < s.cfg.numHarts then okStore (s.writeCmp h new) else holeStore s.cfg.holeClint s := by
    rcases hrow with ⟨rfl, hin⟩ | ⟨v, rfl, hin, hnew⟩ | ⟨v, rfl, hin, hnew⟩
    · exact clintAt_of_le hin _
    · rw [eq_highHalf_append hnew]
      exact clintAt_of_le hin _
    · rw [eq_append_lowHalf hnew]
      exact clintAt_of_le hin _
  rw [hexec]
  refine ⟨fun hh htick => ?_, fun hh hrt => ?_, fun hh => ?_⟩
  · rw [if_pos hh, State.writeCmp_of_tick htick]
    refine ⟨_, rfl, .setClint _ _ s, fun j => cellGet_set _ _ _ _ _, fun j => ?_, fun j => Clint.sync_msipOutOf _ _ _ _,
      rfl, rfl, rfl⟩
    refine (Clint.sync_mtipOutOf _ _ _ _).trans ?_
    rw [Clint.cmp, cellGet_set_same]
    rfl
  · rw [if_pos hh, State.writeCmp_of_realtime hrt]
    have hfresh := State.refreshed
      (s.setClint { s.clint with mtimecmp := cellSet s.cfg.clintMtimecmpInit h new s.clint.mtimecmp })
    refine ⟨_, rfl, .refreshed _ _ s, fun j => ?_, hfresh.msip, hfresh.notBefore, hfresh.last, hfresh.current⟩
    exact (congrArg (cellGet _ · j) hfresh.mtimecmp).trans (cellGet_set _ _ _ _ _)
  · rw [if_neg hh.not_gt]
    exact holeStore_answered _ s

/-! ### O44, O45: the time register (42_clint.md R232, R236) -/

/-- Settles O44: the three rows load a part of the time, after a refresh in real-time mode. -/
theorem mtimeLoads : Obligations.MtimeLoads := by
  intro s i n part hrow
  have hexec : exec i s = okLoad n (BitVec.ofNat 64 (part s.refreshTime.clint.mtime)) s.refreshTime := by
    rcases hrow with ⟨rfl, rfl, hin, rfl⟩ | ⟨rfl, rfl, hin, rfl⟩ | ⟨rfl, rfl, hin, rfl⟩
    · rw [BitVec.ofNat_toNat, BitVec.setWidth_eq]
      exact clintAt_of_le hin _
    · rw [← lowHalf_setWidth]
      exact clintAt_of_le hin _
    · rw [← highHalf_setWidth]
      exact clintAt_of_le hin _
  rw [hexec]
  refine ⟨fun htick => ?_, fun hrt => ?_⟩
  · rw [State.refreshTime_of_tick htick]
    exact okLoad_answered n _ s
  · rw [State.refreshTime_of_realtime hrt]
    have hfresh := s.refreshed
    exact ⟨_, rfl, .refreshed _ s.clint s, hfresh.notBefore, hfresh.last, hfresh.current, hfresh.msip, hfresh.mtimecmp⟩

theorem State.writeTime_of_readOnly {s : State} (h : s.cfg.clintMtimeWritable = false ∨ s.cfg.clintRealtime = true) (v : DWord) :
    s.writeTime v = s :=
  if_pos (by rcases h with h | h <;> simp [h])

theorem State.writeTime_of_writable {s : State} (hw : s.cfg.clintMtimeWritable = true) (htick : s.cfg.clintRealtime = false)
    (v : DWord) : s.writeTime v = s.setClint (({ s.clint with mtime := v } : Clint).syncAll s.cfg) :=
  if_neg (by simp [hw, htick])

/-- Settles O45: the three rows are one write of the new value, ignored or followed by `sync_all()`. -/
theorem mtimeStores : Obligations.MtimeStores := by
  intro s i new hrow
  have hexec : exec i s = okStore (s.writeTime new) := by
    rcases hrow with ⟨rfl, hin⟩ | ⟨v, rfl, hin, hnew⟩ | ⟨v, rfl, hin, hnew⟩
    · exact clintAt_of_le hin _
    · rw [eq_highHalf_append hnew]
      exact clintAt_of_le hin _
    · rw [eq_append_lowHalf hnew]
      exact clintAt_of_le hin _
  rw [hexec]
  refine ⟨fun hro => ?_, fun hw htick => ?_⟩
  · rw [State.writeTime_of_readOnly hro]
    exact okStore_answered s
  · rw [State.writeTime_of_writable hw htick]
    exact ⟨_, rfl, .setClint _ _ s, Clint.syncAll_mtime _ _, Clint.syncAll_current _ _, Clint.syncAll_msip _ _,
      Clint.syncAll_mtimecmp _ _, Clint.syncAll_rtLast _ _⟩

/-! ### O46: `increment` (42_clint.md R230) -/

theorem exec_clintIncrement_of_tick {s : State} (htick : s.cfg.clintRealtime = false) (d : DWord) :
    exec (.clintIncrement d) s =
      okStore (s.setClint (({ s.clint with mtime := s.clint.mtime + d } : Clint).syncAll s.cfg)) :=
  congrArg okStore (if_neg (by simp [htick]))

theorem exec_clintIncrement_of_realtime {s : State} (hrt : s.cfg.clintRealtime = true) (d : DWord) :
    exec (.clintIncrement d) s = okStore s.rtRefresh.syncAll :=
  congrArg okStore (if_pos hrt)

/-- Settles O46: `increment` adds to the time or refreshes it. -/
theorem incrementAdvancesTime : Obligations.IncrementAdvancesTime := by
  refine fun s delta => ⟨fun htick => ?_, fun hrt => ?_⟩
  · rw [exec_clintIncrement_of_tick htick]
    exact ⟨_, rfl, .setClint _ _ s, (congrArg BitVec.toNat (Clint.syncAll_mtime _ _)).trans (BitVec.toNat_add _ _),
      Clint.syncAll_current _ _, Clint.syncAll_msip _ _, Clint.syncAll_mtimecmp _ _, Clint.syncAll_rtLast _ _⟩
  · rw [exec_clintIncrement_of_realtime hrt]
    have hfresh := s.refreshed
    exact ⟨_, rfl, .refreshed _ s.clint s, hfresh.notBefore, hfresh.last, hfresh.current, hfresh.msip, hfresh.mtimecmp⟩

/-! ### Transactions that leave the CLINT alone -/

theorem okLoad_clint {n : Nat} {v : DWord} {u t : State} (h : okLoad n v u = .next t) : t.clint = u.clint :=
  okLoad_next.1 h ▸ rfl

theorem okStore_clint {u t : State} (h : okStore u = .next t) : t.clint = u.clint := okStore_next.1 h ▸ rfl

/-- If the result is a next state, its CLINT is that of `s`. -/
def KeepsClint (s : State) (r : Result) : Prop := ∀ t, r = .next t → t.clint = s.clint

section Keeps

variable {s u : State}

theorem okLoad_keepsClint (n : Nat) (v : DWord) (h : u.clint = s.clint) : KeepsClint s (okLoad n v u) :=
  fun _ ht => (okLoad_clint ht).trans h

theorem okStore_keepsClint (h : u.clint = s.clint) : KeepsClint s (okStore u) :=
  fun _ ht => (okStore_clint ht).trans h

theorem failUnmapped_keepsClint (h : u.clint = s.clint) : KeepsClint s (failUnmapped u) :=
  fun _ ht => failUnmapped_next.1 ht ▸ h

theorem refused_keepsClint (s : State) (r : Refusal) : KeepsClint s (.refused r) :=
  fun _ ht => by cases ht

theorem holeLoad_keepsClint (p : HolePolicy) (n : Nat) (s : State) : KeepsClint s (holeLoad p n s) := by
  cases p
  · exact okLoad_keepsClint n _ rfl
  · exact failUnmapped_keepsClint rfl

theorem holeStore_keepsClint (p : HolePolicy) (s : State) : KeepsClint s (holeStore p s) := by
  cases p
  · exact okStore_keepsClint rfl
  · exact failUnmapped_keepsClint rfl

theorem KeepsClint.ite {p : Prop} [Decidable p] {r r' : Result} (h : KeepsClint s r) (h' : KeepsClint s r') :
    KeepsClint s (if p then r else r') := by
  split
  · exact h
  · exact h'

theorem KeepsClint.inRange {size off n : Nat} {r : Result} (h : KeepsClint s r) : KeepsClint s (inRange size off n s r) :=
  .ite h (failUnmapped_keepsClint rfl)

end Keeps

/-! #### PLIC -/

theorem plicLoadRow_keepsClint {slot : PlicSlot} {i : Instr} (hrow : plicLoadRow slot = some i) (s : State) :
    KeepsClint s (exec i s) := by
  cases slot <;> cases hrow <;> refine .inRange ?_
  case priority =>
    exact .ite (okLoad_keepsClint 4 _ rfl) (.ite (okLoad_keepsClint 4 _ rfl) (holeLoad_keepsClint _ 4 s))
  case pending | enable | threshold | claim => exact .ite (holeLoad_keepsClint _ 4 s) (okLoad_keepsClint 4 _ rfl)

theorem plicStoreRow_keepsClint {slot : PlicSlot} {v : Word} {i : Instr} (hrow : plicStoreRow v slot = some i) (s : State) :
    KeepsClint s (exec i s) := by
  cases slot <;> cases hrow <;> refine .inRange ?_
  case priority => exact .ite (okStore_keepsClint rfl) (.ite (okStore_keepsClint rfl) (holeStore_keepsClint _ s))
  case pending | enable | threshold | claim => exact .ite (holeStore_keepsClint _ s) (okStore_keepsClint rfl)

theorem plic_keepsClint (off n : Nat) (v : DWord) (s : State) :
    KeepsClint s (plicLoad off n s) ∧ KeepsClint s (plicStore off n v s) := by
  by_cases hshape : n = 4 ∧ off % 4 = 0
  · obtain ⟨rfl, h4⟩ := hshape
    rcases plicSlot_hole_or_at h4 with hhole | ⟨hfits, -⟩
    · obtain ⟨hload, hstore⟩ := plic_at_hole h4 hhole v s
      rw [hload, hstore]
      exact ⟨holeLoad_keepsClint _ 4 s, holeStore_keepsClint _ s⟩
    · obtain ⟨⟨i, hload⟩, j, hstore⟩ := plicRows_of_fits hfits (v.setWidth 32)
      rw [plicLoad_eq_exec_row h4 hload, plicStore_eq_exec_row h4 hstore]
      exact ⟨plicLoadRow_keepsClint hload s, plicStoreRow_keepsClint hstore s⟩
  · obtain ⟨hload, hstore⟩ := plic_refuses_shape hshape v s
    rw [hload, hstore]
    exact ⟨refused_keepsClint s _, refused_keepsClint s _⟩

/-! #### UART -/

theorem uartLoaded_keepsClint {s u : State} (b : Byte) (h : u.clint = s.clint) : KeepsClint s (uartLoaded b u) :=
  okLoad_keepsClint 1 _ ((State.checkInt_clint u).trans h)

theorem uartStored_keepsClint {s u : State} (h : u.clint = s.clint) : KeepsClint s (uartStored u) :=
  okStore_keepsClint ((State.checkInt_clint u).trans h)

theorem rbrLoad_keepsClint (s : State) : KeepsClint s (rbrLoad s) := by
  unfold rbrLoad
  split
  · exact uartLoaded_keepsClint _ rfl
  · exact uartLoaded_keepsClint _ rfl

theorem uartLoadRow_keepsClint {reg : UartReg} {i : Instr} (hrow : uartLoadRow reg = some i) (s : State) :
    KeepsClint s (exec i s) := by
  cases reg <;> cases hrow <;> refine .inRange ?_
  case rbr | dll => exact .ite (uartLoaded_keepsClint _ rfl) (rbrLoad_keepsClint s)
  case ier | dlm | lsr | psd => exact .ite (uartLoaded_keepsClint _ rfl) (uartLoaded_keepsClint _ rfl)
  case iir | lcr | mcr | msr | scr => exact uartLoaded_keepsClint _ rfl

theorem uartStoreRow_keepsClint {reg : UartReg} {v : Byte} {i : Instr} (hrow : uartStoreRow v reg = some i) (s : State) :
    KeepsClint s (exec i s) := by
  cases reg <;> cases hrow <;> refine .inRange ?_
  case thr | dll | ier | dlm | lsr | psd => exact .ite (uartStored_keepsClint rfl) (uartStored_keepsClint rfl)
  case fcr | lcr | mcr | msr | scr => exact uartStored_keepsClint rfl

theorem uart_keepsClint (off n : Nat) (v : DWord) (s : State) :
    KeepsClint s (uartLoad off n s) ∧ KeepsClint s (uartStore off n v s) := by
  by_cases hn : n = 1
  · subst hn
    cases hindex : uartIndex s.cfg.uartRegShift off with
    | none =>
      obtain ⟨hload, hstore⟩ := uart_at_hole hindex v
      rw [hload, hstore]
      exact ⟨holeLoad_keepsClint _ 1 s, holeStore_keepsClint _ s⟩
    | some k =>
      obtain ⟨hk, -⟩ := uartIndex_eq_some hindex
      obtain ⟨lreg, i, hlreg, hload⟩ := uartLoadReg_row hk s.uart.dlab
      obtain ⟨sreg, j, hsreg, hstore⟩ := uartStoreReg_row hk s.uart.dlab (v.setWidth 8)
      rw [uartLoad_eq_exec_row hindex (Option.bind_eq_some_iff.2 ⟨lreg, hlreg, hload⟩),
        uartStore_eq_exec_row hindex (Option.bind_eq_some_iff.2 ⟨sreg, hsreg, hstore⟩)]
      exact ⟨uartLoadRow_keepsClint hload s, uartStoreRow_keepsClint hstore s⟩
  · obtain ⟨hload, hstore⟩ := uart_refuses_width hn off v s
    rw [hload, hstore]
    exact ⟨refused_keepsClint s _, refused_keepsClint s _⟩

/-! #### SDHC -/

theorem bufdataLoad_keepsClint (s : State) : KeepsClint s (bufdataLoad s) := by
  refine .ite (okLoad_keepsClint 4 _ rfl) (.ite (refused_keepsClint s _) (okLoad_keepsClint 4 _ ?_))
  split <;> simp

theorem bufdataStore_keepsClint (v : Word) (s : State) : KeepsClint s (bufdataStore v s) := by
  refine .ite (okStore_keepsClint rfl) (.ite (refused_keepsClint s _) (okStore_keepsClint ?_))
  split <;> simp

theorem KeepsClint.sdhcGate {s : State} {r : Result} (h : KeepsClint s r) (off n : Nat) : KeepsClint s (sdhcGate off n s r) :=
  .inRange (.ite (failUnmapped_keepsClint rfl) (.ite (refused_keepsClint s _) (.ite (failUnmapped_keepsClint rfl) h)))

theorem sdhcLoad_keepsClint (off n : Nat) (s : State) : KeepsClint s (sdhcLoad off n s) :=
  .sdhcGate (.ite (bufdataLoad_keepsClint s) (okLoad_keepsClint n _ rfl)) off n

theorem sdhcStore_keepsClint (off n : Nat) (v : DWord) (s : State) : KeepsClint s (sdhcStore off n v s) := by
  refine .sdhcGate (.ite (bufdataStore_keepsClint _ s) ?_) off n
  split
  · exact refused_keepsClint s _
  · rename_i u hu
    exact okStore_keepsClint (by rw [State.recomputeLine_clint, (storeCommand_move hu).2.clint, State.storeBytes_clint])

/-! #### Bus -/

theorem otherLoad_keepsClint (id off n : Nat) (s : State) : KeepsClint s (otherLoad id off n s) := by
  unfold otherLoad
  split
  · exact okLoad_keepsClint n _ rfl
  · exact failUnmapped_keepsClint rfl
  · exact refused_keepsClint s _

theorem otherStore_keepsClint (id off n : Nat) (v : DWord) (s : State) : KeepsClint s (otherStore id off n v s) := by
  unfold otherStore
  split
  · exact okStore_keepsClint rfl
  · exact failUnmapped_keepsClint rfl
  · exact refused_keepsClint s _

/-- A device other than the CLINT. -/
theorem device_keepsClint {d : Device} (hd : d ≠ .clint) (off n : Nat) (v : DWord) (s : State) :
    KeepsClint s (deviceLoad d off n s) ∧ KeepsClint s (deviceStore d off n v s) := by
  cases d with
  | clint => exact absurd rfl hd
  | plic => exact plic_keepsClint off n v s
  | uart => exact uart_keepsClint off n v s
  | sdhc => exact ⟨sdhcLoad_keepsClint off n s, sdhcStore_keepsClint off n v s⟩
  | bus => exact ⟨failUnmapped_keepsClint rfl, failUnmapped_keepsClint rfl⟩
  | other id => exact ⟨otherLoad_keepsClint id off n s, otherStore_keepsClint id off n v s⟩

theorem execBusAddDevice_keepsClint (on : Nat) (base : DWord) (d : Device) (s : State) :
    KeepsClint s (execBusAddDevice on base d s) := by
  intro t h
  unfold execBusAddDevice at h
  split_ifs at h
  injection h with h
  rw [← h]
  rfl

/-! ### How a transaction reaches the CLINT -/

/-- How transaction `i`, which takes `s` to `t`, reaches the CLINT: not at all, by the tick, by the meaning of a load row (`i` itself or
a routed Bus load), as a store row, or as a Bus store that is routed to a store row. -/
inductive ReachesClint (s t : State) : Instr → Prop
  | kept {i : Instr} (h : t.clint = s.clint) : ReachesClint s t i
  | tick (d : DWord) : ReachesClint s t (.clintIncrement d)
  | load {i row : Instr} {slot : ClintSlot} (hrow : clintLoadRow slot = some row) (h : exec row s = .next t) : ReachesClint s t i
  | store {row : Instr} {slot : ClintSlot} {v : DWord} (hrow : clintStoreRow v slot = some row) (h : exec row s = .next t) :
      ReachesClint s t row
  | busStore {row : Instr} {addr v : DWord} {n off : Nat} (hroute : s.route addr n = some (.clint, off))
      (hrow : clintStoreRow v (clintSlot s.cfg.numHarts off n) = some row) (h : exec row s = .next t) :
      ReachesClint s t (.busStore addr n v)

theorem busLoad_reachesClint {addr : DWord} {n : Nat} {s t : State} (h : exec (.busLoad addr n) s = .next t) :
    ReachesClint s t (.busLoad addr n) := by
  by_cases hn : lenOk n = true
  · cases hroute : s.route addr n with
    | none =>
      rw [exec_busLoad_of_route_none hn hroute] at h
      exact .kept (failUnmapped_keepsClint rfl t h)
    | some p =>
      obtain ⟨d, off⟩ := p
      rw [exec_busLoad_of_route hn hroute] at h
      by_cases hd : d = .clint
      · subst hd
        change clintLoad off n s = .next t at h
        rcases clintSlot_hole_or_refuse_or_at s.cfg.numHarts off n with hhole | hrefuse | ⟨hfits, -⟩
        · rw [(clint_at_hole hhole 0#64).1] at h
          exact .kept (holeLoad_keepsClint _ n s t h)
        · rw [(clint_refuses_slot hrefuse 0#64).1] at h
          cases h
        · obtain ⟨⟨row, hrow⟩, -⟩ := clintRows_of_fits hfits 0#64
          exact .load hrow (clintLoad_eq_exec_row hrow ▸ h)
      · exact .kept ((device_keepsClint hd off n 0#64 s).1 t h)
  · rw [exec_busLoad_of_badLength hn] at h
    cases h

theorem busStore_reachesClint {addr v : DWord} {n : Nat} {s t : State} (h : exec (.busStore addr n v) s = .next t) :
    ReachesClint s t (.busStore addr n v) := by
  by_cases hn : lenOk n = true
  · cases hroute : s.route addr n with
    | none =>
      rw [exec_busStore_of_route_none hn hroute] at h
      exact .kept (failUnmapped_keepsClint rfl t h)
    | some p =>
      obtain ⟨d, off⟩ := p
      rw [exec_busStore_of_route hn hroute] at h
      by_cases hd : d = .clint
      · subst hd
        change clintStore off n v s = .next t at h
        rcases clintSlot_hole_or_refuse_or_at s.cfg.numHarts off n with hhole | hrefuse | ⟨hfits, -⟩
        · rw [(clint_at_hole hhole v).2] at h
          exact .kept (holeStore_keepsClint _ s t h)
        · rw [(clint_refuses_slot hrefuse v).2] at h
          cases h
        · obtain ⟨-, row, hrow⟩ := clintRows_of_fits hfits v
          exact .busStore hroute hrow (clintStore_eq_exec_row hrow ▸ h)
      · exact .kept ((device_keepsClint hd off n v s).2 t h)
  · rw [exec_busStore_of_badLength hn] at h
    cases h

/-- Every transaction, by its device. -/
theorem exec_reachesClint {i : Instr} {s t : State} (h : exec i s = .next t) : ReachesClint s t i := by
  have kept : KeepsClint s (exec i s) → ReachesClint s t i := fun hk => .kept (hk t h)
  cases i with
  | busLoad addr n => exact busLoad_reachesClint h
  | busStore addr n v => exact busStore_reachesClint h
  | busAddDevice on base d => exact kept (execBusAddDevice_keepsClint on base d s)
  | busFindDevice addr =>
    injection h with h
    exact .kept (h ▸ rfl)
  | plicPriorityLd k => exact kept (plicLoadRow_keepsClint (slot := .priority k) rfl s)
  | plicPendingLd w => exact kept (plicLoadRow_keepsClint (slot := .pending w) rfl s)
  | plicEnableLd c w => exact kept (plicLoadRow_keepsClint (slot := .enable c w) rfl s)
  | plicThresholdLd c => exact kept (plicLoadRow_keepsClint (slot := .threshold c) rfl s)
  | plicClaimLd c => exact kept (plicLoadRow_keepsClint (slot := .claim c) rfl s)
  | plicPrioritySt k v => exact kept (plicStoreRow_keepsClint (slot := .priority k) rfl s)
  | plicPendingSt w v => exact kept (plicStoreRow_keepsClint (slot := .pending w) (v := v) rfl s)
  | plicEnableSt c w v => exact kept (plicStoreRow_keepsClint (slot := .enable c w) rfl s)
  | plicThresholdSt c v => exact kept (plicStoreRow_keepsClint (slot := .threshold c) rfl s)
  | plicCompleteSt c v => exact kept (plicStoreRow_keepsClint (slot := .claim c) rfl s)
  | plicRaiseIrq k level => exact kept (.ite (refused_keepsClint s _) (okStore_keepsClint rfl))
  | plicUpdate => exact kept (okStore_keepsClint rfl)
  | plicIntCheck c => exact kept (.ite (refused_keepsClint s _) fun _ ht => Host.Outcome.next.inj ht ▸ rfl)
  | clintMsipLd h' => exact .load (slot := .msip h') rfl h
  | clintMtimecmpLd64 h' => exact .load (slot := .cmp64 h') rfl h
  | clintMtimecmpLdLo h' => exact .load (slot := .cmpLo h') rfl h
  | clintMtimecmpLdHi h' => exact .load (slot := .cmpHi h') rfl h
  | clintMtimeLd64 => exact .load (slot := .time64) rfl h
  | clintMtimeLdLo => exact .load (slot := .timeLo) rfl h
  | clintMtimeLdHi => exact .load (slot := .timeHi) rfl h
  | clintMsipSt h' v => exact .store (slot := .msip h') (v := v.setWidth 64) (by simp [clintStoreRow]) h
  | clintMtimecmpSt64 h' v => exact .store (slot := .cmp64 h') (v := v) rfl h
  | clintMtimecmpStLo h' v => exact .store (slot := .cmpLo h') (v := v.setWidth 64) (by simp [clintStoreRow]) h
  | clintMtimecmpStHi h' v => exact .store (slot := .cmpHi h') (v := v.setWidth 64) (by simp [clintStoreRow]) h
  | clintMtimeSt64 v => exact .store (slot := .time64) (v := v) rfl h
  | clintMtimeStLo v => exact .store (slot := .timeLo) (v := v.setWidth 64) (by simp [clintStoreRow]) h
  | clintMtimeStHi v => exact .store (slot := .timeHi) (v := v.setWidth 64) (by simp [clintStoreRow]) h
  | clintIncrement d => exact .tick d
  | sdhcSysaddrLd j n | sdhcBlksizeLd j n | sdhcBlkcntLd j n | sdhcArgLd j n | sdhcXfermodeLd j n | sdhcCmdLd j n
  | sdhcRespLd j n | sdhcPrsntLd j n | sdhcHostctlLd j n | sdhcPwrctlLd j n | sdhcClkctlLd j n | sdhcToctlLd j n
  | sdhcSwrstLd j n | sdhcNistsLd j n | sdhcEistsLd j n | sdhcNistenLd j n | sdhcEistenLd j n | sdhcNisigenLd j n
  | sdhcEisigenLd j n | sdhcCapsLd j n | sdhcMaxcurLd j n | sdhcVersionLd j n | sdhcBufdataLd =>
    exact kept (sdhcLoad_keepsClint _ _ s)
  | sdhcSysaddrSt j n v | sdhcBlksizeSt j n v | sdhcBlkcntSt j n v | sdhcArgSt j n v | sdhcXfermodeSt j n v | sdhcCmdSt j n v
  | sdhcRespSt j n v | sdhcPrsntSt j n v | sdhcHostctlSt j n v | sdhcPwrctlSt j n v | sdhcClkctlSt j n v | sdhcToctlSt j n v
  | sdhcSwrstSt j n v | sdhcNistsSt j n v | sdhcEistsSt j n v | sdhcNistenSt j n v | sdhcEistenSt j n v | sdhcNisigenSt j n v
  | sdhcEisigenSt j n v | sdhcCapsSt j n v | sdhcMaxcurSt j n v | sdhcVersionSt j n v | sdhcBufdataSt v =>
    exact kept (sdhcStore_keepsClint _ _ _ s)
  | uartRbrLd => exact kept (uartLoadRow_keepsClint (reg := .rbr) rfl s)
  | uartDllLd => exact kept (uartLoadRow_keepsClint (reg := .dll) rfl s)
  | uartIerLd => exact kept (uartLoadRow_keepsClint (reg := .ier) rfl s)
  | uartDlmLd => exact kept (uartLoadRow_keepsClint (reg := .dlm) rfl s)
  | uartIirLd => exact kept (uartLoadRow_keepsClint (reg := .iir) rfl s)
  | uartLcrLd => exact kept (uartLoadRow_keepsClint (reg := .lcr) rfl s)
  | uartMcrLd => exact kept (uartLoadRow_keepsClint (reg := .mcr) rfl s)
  | uartLsrLd => exact kept (uartLoadRow_keepsClint (reg := .lsr) rfl s)
  | uartPsdLd => exact kept (uartLoadRow_keepsClint (reg := .psd) rfl s)
  | uartMsrLd => exact kept (uartLoadRow_keepsClint (reg := .msr) rfl s)
  | uartScrLd => exact kept (uartLoadRow_keepsClint (reg := .scr) rfl s)
  | uartThrSt v => exact kept (uartStoreRow_keepsClint (reg := .thr) rfl s)
  | uartDllSt v => exact kept (uartStoreRow_keepsClint (reg := .dll) rfl s)
  | uartIerSt v => exact kept (uartStoreRow_keepsClint (reg := .ier) rfl s)
  | uartDlmSt v => exact kept (uartStoreRow_keepsClint (reg := .dlm) rfl s)
  | uartFcrSt v => exact kept (uartStoreRow_keepsClint (reg := .fcr) rfl s)
  | uartLcrSt v => exact kept (uartStoreRow_keepsClint (reg := .lcr) rfl s)
  | uartMcrSt v => exact kept (uartStoreRow_keepsClint (reg := .mcr) rfl s)
  | uartLsrSt v => exact kept (uartStoreRow_keepsClint (reg := .lsr) (v := v) rfl s)
  | uartPsdSt v => exact kept (uartStoreRow_keepsClint (reg := .psd) rfl s)
  | uartMsrSt v => exact kept (uartStoreRow_keepsClint (reg := .msr) (v := v) rfl s)
  | uartScrSt v => exact kept (uartStoreRow_keepsClint (reg := .scr) rfl s)
  | uartPoll => exact kept (uartStored_keepsClint rfl)
  | uartHostInput bytes => exact kept (okStore_keepsClint rfl)

/-! ### What the CLINT's rows do to the CLINT -/

theorem inRange_clint {size off n : Nat} {s t : State} {r : Result} (h : inRange size off n s r = .next t) :
    t.clint = s.clint ∨ r = .next t := by
  rcases inRange_next h with ⟨-, h⟩ | ⟨-, rfl⟩
  · exact .inr h
  · exact .inl rfl

/-- A load row changes nothing, or refreshes the time. -/
theorem clintLoadRow_clint {slot : ClintSlot} {i : Instr} {s t : State} (hrow : clintLoadRow slot = some i)
    (h : exec i s = .next t) : t.clint = s.clint ∨ t.clint = s.refreshTime.clint := by
  cases slot <;> cases hrow
  case msip | cmp64 | cmpLo | cmpHi =>
    exact .inl (KeepsClint.inRange (.ite (okLoad_keepsClint _ _ rfl) (holeLoad_keepsClint _ _ s)) t h)
  case time64 | timeLo | timeHi => exact (inRange_clint h).imp_right okLoad_clint

/-- A store row changes nothing, or is the write of one hart's `msip`, of one hart's `mtimecmp`, or of the time. -/
theorem clintStoreRow_clint {slot : ClintSlot} {v : DWord} {i : Instr} {s t : State} (hrow : clintStoreRow v slot = some i)
    (h : exec i s = .next t) :
    t.clint = s.clint ∨
    (∃ hart b, slot = .msip hart ∧
      t.clint = ({ s.clint with msip := cellSet false hart b s.clint.msip } : Clint).sync s.cfg hart) ∨
    (∃ hart x, t.clint = (s.writeCmp hart x).clint) ∨ ∃ x, t.clint = (s.writeTime x).clint := by
  cases slot <;> cases hrow <;> refine (inRange_clint h).elim .inl fun h => ?_
  case msip =>
    split at h
    · exact .inr (.inl ⟨_, _, rfl, okStore_clint h⟩)
    · exact .inl (holeStore_keepsClint _ s t h)
  case cmp64 | cmpLo | cmpHi =>
    split at h
    · exact .inr (.inr (.inl ⟨_, _, okStore_clint h⟩))
    · exact .inl (holeStore_keepsClint _ s t h)
  case time64 | timeLo | timeHi => exact .inr (.inr (.inr ⟨_, okStore_clint h⟩))

/-! ### O19: what moves the time (42_clint.md R230, R231, R236, R241) -/

/-- A store row moves the time in real-time mode, or where the time is writable, only. -/
theorem clintStoreRow_mtime {slot : ClintSlot} {v : DWord} {i : Instr} {s t : State} (hrow : clintStoreRow v slot = some i)
    (h : exec i s = .next t) (htick : s.cfg.clintRealtime = false) (hro : s.cfg.clintMtimeWritable = false) :
    t.clint.mtime = s.clint.mtime := by
  rcases clintStoreRow_clint hrow h with ht | ⟨hart, b, -, ht⟩ | ⟨hart, x, ht⟩ | ⟨x, ht⟩ <;> rw [ht]
  · rfl
  · rw [State.writeCmp_of_tick htick]
    rfl
  · rw [State.writeTime_of_readOnly (.inl hro)]

/-- Every refresh draws a value at or above the last one. -/
theorem ClintMove.rtLast_le {cfg : Config} {c e : Clint} (h : ClintMove cfg c e) : c.rtLast.toNat ≤ e.rtLast.toNat := by
  cases h with
  | same | msip | cmp => exact Nat.le_refl _
  | time v => rw [Clint.syncAll_rtLast]
  | cmpRefresh hart v d hh hd | refresh d hd =>
    rw [Clint.syncAll_rtLast]
    exact hd

/-- Settles O19: by how the transaction reaches the CLINT, and by what each move does to `rt_last`. -/
theorem timeMovesOnlyByTicks : Obligations.TimeMovesOnlyByTicks := by
  refine fun i s t h => ⟨fun htick hro hnot => ?_, (exec_effect h).clint.rtLast_le⟩
  cases exec_reachesClint h with
  | kept ht => rw [ht]
  | tick d => exact absurd rfl (hnot d)
  | load hrow hx =>
    rcases clintLoadRow_clint hrow hx with ht | ht
    · rw [ht]
    · rw [ht, State.refreshTime_of_tick htick]
  | store hrow hx => exact clintStoreRow_mtime hrow hx htick hro
  | busStore hroute hrow hx => exact clintStoreRow_mtime hrow hx htick hro

/-! ### O47: the timer law, and what moves `MSIP_out` (42_clint.md R239) -/

@[simp] theorem State.rtRefresh_msip (s : State) : s.rtRefresh.clint.msip = s.clint.msip := rfl

@[simp] theorem State.refreshTime_msip (s : State) : s.refreshTime.clint.msip = s.clint.msip := by
  unfold State.refreshTime
  split <;> simp

@[simp] theorem State.writeCmp_msip (h : Nat) (v : DWord) (s : State) : (s.writeCmp h v).clint.msip = s.clint.msip := by
  unfold State.writeCmp State.afterCmp
  split
  · simp
  · rfl

@[simp] theorem State.writeTime_msip (v : DWord) (s : State) : (s.writeTime v).clint.msip = s.clint.msip := by
  unfold State.writeTime
  split <;> simp

/-- Of the CLINT's store rows only that of `msip[h]` changes `msip[h]`. -/
theorem clintStoreRow_msip {slot : ClintSlot} {v : DWord} {i : Instr} {s t : State} (hrow : clintStoreRow v slot = some i)
    (h : exec i s = .next t) {hart : Nat} (hne : t.clint.msipOf hart ≠ s.clint.msipOf hart) : slot = .msip hart := by
  have kept (ht : t.clint.msip = s.clint.msip) : slot = .msip hart := absurd (congrArg (cellGet false · hart) ht) hne
  rcases clintStoreRow_clint hrow h with ht | ⟨hart', b, hslot, ht⟩ | ⟨hart', x, ht⟩ | ⟨x, ht⟩
  · exact kept (by rw [ht])
  · by_cases heq : hart = hart'
    · exact heq ▸ hslot
    · refine absurd ?_ hne
      rw [ht]
      exact cellGet_set_other _ _ _ _ _ heq
  · exact kept (by simp [ht])
  · exact kept (by simp [ht])

/-- The 4-byte slot of `msip[h]` (30_encoding.md R136). -/
theorem eq_of_clintSlot_msip {harts off n h : Nat} (hslot : clintSlot harts off n = .msip h) : n = 4 ∧ off = 4 * h := by
  rcases clintSlot_hole_or_refuse_or_at harts off n with hhole | hrefuse | ⟨-, hoff, hwidth⟩
  · rw [hslot] at hhole
    cases hhole
  · rw [hslot] at hrefuse
    cases hrefuse
  · rw [hslot] at hoff hwidth
    exact ⟨hwidth.symm, hoff.symm⟩

/-- `msip[h]` changes only by its own store, made directly or through the Bus. -/
theorem msipOf_changes {i : Instr} {s t : State} {hart : Nat} (h : exec i s = .next t)
    (hne : t.clint.msipOf hart ≠ s.clint.msipOf hart) :
    (∃ v, i = .clintMsipSt hart v) ∨ ∃ addr v, i = .busStore addr 4 v ∧ s.route addr 4 = some (.clint, 4 * hart) := by
  have same (ht : t.clint.msip = s.clint.msip) : False := hne (congrArg (cellGet false · hart) ht)
  cases exec_reachesClint h with
  | kept ht => exact (same (by rw [ht])).elim
  | tick d =>
    refine (same ?_).elim
    rw [okStore_clint h]
    split <;> simp
  | load hrow hx =>
    refine (same ?_).elim
    rcases clintLoadRow_clint hrow hx with ht | ht <;> simp [ht]
  | store hrow hx =>
    rw [clintStoreRow_msip hrow hx hne] at hrow
    exact .inl ⟨_, (Option.some.inj hrow).symm⟩
  | busStore hroute hrow hx =>
    obtain ⟨rfl, rfl⟩ := eq_of_clintSlot_msip (clintStoreRow_msip hrow hx hne)
    exact .inr ⟨_, _, rfl, hroute⟩

/-- A compare `k` ticks ahead of the time does not wrap. -/
theorem toNat_add_ofNat_of_lt {x : DWord} {k : Nat} (h : x.toNat + k < 2 ^ 64) :
    (x + BitVec.ofNat 64 k).toNat = x.toNat + k := by
  rw [BitVec.toNat_add, BitVec.toNat_ofNat, Nat.add_mod_mod, Nat.mod_eq_of_lt h]

/-- Settles O47: `sync(h)` after the store and `sync_all()` after the tick evaluate the compare; and on current outputs `MSIP_out[h]`
is `msip[h]`, which only its own store changes. -/
theorem timerFiresExactlyAtTheCompare : Obligations.TimerFiresExactlyAtTheCompare := by
  refine ⟨fun s h k d htick hh hin hk hnowrap hd => ?_, fun i s t h hx hs hh hne => ?_⟩
  · have hstores := mtimecmpStores s h (.clintMtimecmpSt64 h (s.clint.mtime + BitVec.ofNat 64 k)) _ (.inl ⟨rfl, hin⟩)
    obtain ⟨t, ht, ⟨-, -, hcfg, -⟩, hcmp, hmtip, -, hmtime, -, -⟩ := hstores.1 hh htick
    obtain ⟨u, hu, -, hutime, hcurrent, -, hucmp, -⟩ := (incrementAdvancesTime t d).1 (hcfg ▸ htick)
    have hahead : (s.clint.mtime + BitVec.ofNat 64 k).toNat = s.clint.mtime.toNat + k :=
      toNat_add_ofNat_of_lt hnowrap
    have hucompare : (u.clint.cmp t.cfg h).toNat = s.clint.mtime.toNat + k := by
      rw [Clint.cmp, hucmp, hcfg, ← hahead]
      exact congrArg BitVec.toNat ((hcmp h).trans (if_pos rfl))
    refine ⟨t, u, ht, hu, ?_, ?_⟩
    · rw [hmtip, if_pos rfl, hahead]
      exact decide_eq_false (by omega)
    · rw [(hcurrent h (hcfg ▸ hh)).2, hucompare, hutime, hmtime, Nat.mod_eq_of_lt hd]
      exact decide_eq_decide.2 (Nat.add_le_add_iff_left)
  · have hcurrent := (exec_effect hx).clint.outputsCurrent hs h hh
    refine msipOf_changes hx ?_
    rwa [← hcurrent.1, ← (hs h hh).1]

end Sys2Proof.Machine
end

section
/-! PROOFS. The SDHC's transfer state (43_sdhc.md R270, R288): it stays consistent (O8), and the image changes only at the
write-back of a full block (O16). -/

namespace Sys2Proof.Machine

/-! ### The parts of a transfer, each as one update (43_sdhc.md R273, R278, R279, R282) -/

theorem Sdhc.startRead_eq (d : Sdhc) : d.startRead = { d with
    buf := copyBytes d.image d.pos.toNat 0 Config.blockSize d.buf, cursor := 0, xfer := .read
    prsnt := putBit (putBit d.prsnt prsntRTA true) prsntBRE true, nists := putBit d.nists nistsBRR true } := rfl

theorem Sdhc.startWrite_eq (d : Sdhc) : d.startWrite = { d with
    cursor := 0, xfer := .write
    prsnt := putBit (putBit d.prsnt prsntWTA true) prsntBWE true, nists := putBit d.nists nistsBWR true } := rfl

theorem Sdhc.idle_eq (d : Sdhc) : d.idle = { d with
    xfer := .none, prsnt := putBit (putBit d.prsnt prsntRTA false) prsntWTA false } := rfl

theorem Sdhc.closeBlock_eq (d : Sdhc) : d.closeBlock = { d with
    cursor := 0, blkcnt := if d.xfermode.getLsbD xfermodeBCE then d.blkcnt - 1#16 else d.blkcnt
    prsnt := putBit d.prsnt (if d.xfer = .read then prsntBRE else prsntBWE) false
    nists := putBit d.nists (if d.xfer = .read then nistsBRR else nistsBWR) false } := by
  unfold Sdhc.closeBlock Sdhc.putPrsnt Sdhc.putNists
  by_cases hx : d.xfer = .read <;> cases hb : d.xfermode.getLsbD xfermodeBCE <;> simp [hx, hb]

/-- A block's end overwrites the cursor. -/
theorem Sdhc.closeBlock_setCursor (d : Sdhc) (k : Nat) : ({ d with cursor := k } : Sdhc).closeBlock = d.closeBlock := by
  rw [Sdhc.closeBlock_eq, Sdhc.closeBlock_eq]

theorem Sdhc.advance_of_read {d : Sdhc} (h : d.xfer = .read) : d.advance = { d with
    pos := d.pos + 512#64, buf := copyBytes d.image (d.pos + 512#64).toNat 0 Config.blockSize d.buf
    prsnt := putBit d.prsnt prsntBRE true, nists := putBit d.nists nistsBRR true } := by
  simp only [Sdhc.advance, h, if_true, Sdhc.fillBuffer, Sdhc.armRead, Sdhc.putPrsnt, Sdhc.putNists]

theorem Sdhc.advance_of_not_read {d : Sdhc} (h : d.xfer ≠ .read) : d.advance = { d with
    pos := d.pos + 512#64, prsnt := putBit d.prsnt prsntBWE true, nists := putBit d.nists nistsBWR true } := by
  simp only [Sdhc.advance, h, if_false, Sdhc.armWrite, Sdhc.putPrsnt, Sdhc.putNists]

theorem Sdhc.resetData_eq (d : Sdhc) : d.resetData = { d with
    cursor := 0, xfer := .none
    prsnt := putBit (putBit (putBit (putBit (putBit d.prsnt prsntWTA false) prsntRTA false) prsntBWE false) prsntBRE false)
      prsntDATINH false
    nists := putBit (putBit (putBit (putBit (putBit d.nists nistsTC false) nistsBGE false) nistsDMAINT false) nistsBWR false)
      nistsBRR false } := by
  simp only [Sdhc.resetData, Sdhc.putPrsnt, Sdhc.putNists]

/-! ### O8: the transfer state, the present-state bits, the cursor and the seek position -/

theorem cursor_zero_ok : 0 < Config.blockSize ∧ 0 % 4 = 0 := by decide

/-- The capacity test is exact, so the next block's position does not wrap (assumption log 18). -/
theorem toNat_pos_add_block {pos capacity : DWord} (hp : pos.toNat + 512 + 512 ≤ capacity.toNat) :
    (pos + 512#64).toNat = pos.toNat + 512 := by
  have hlt := capacity.isLt
  rw [BitVec.toNat_add, BitVec.toNat_ofNat]
  omega

section Consistent

variable {d : Sdhc}

/-- With no transfer the four transfer bits are clear (43_sdhc.md R270). -/
theorem Sdhc.consistent_of_none (hx : d.xfer = .none) (hcursor : d.cursor < Config.blockSize ∧ d.cursor % 4 = 0)
    (hbre : d.prsnt.getLsbD prsntBRE = false) (hbwe : d.prsnt.getLsbD prsntBWE = false)
    (hrta : d.prsnt.getLsbD prsntRTA = false) (hwta : d.prsnt.getLsbD prsntWTA = false) : d.Consistent := by
  constructor <;> simp [*]

variable (h : d.Consistent)
include h

/-- Consistency looks at five fields. -/
theorem Sdhc.Consistent.congr {e : Sdhc} (hprsnt : e.prsnt = d.prsnt) (hxfer : e.xfer = d.xfer) (hcursor : e.cursor = d.cursor)
    (hpos : e.pos = d.pos) (hcapacity : e.capacity = d.capacity) : e.Consistent := by
  obtain ⟨hbre, hbwe, hrta, hwta, hcur, hin⟩ := h
  constructor <;> simpa only [hprsnt, hxfer, hcursor, hpos, hcapacity]

theorem Sdhc.Consistent.word (hc : d.cursor + 4 ≠ Config.blockSize) : ({ d with cursor := d.cursor + 4 } : Sdhc).Consistent := by
  obtain ⟨hlt, h4⟩ := h.cursor
  simp only [Config.blockSize] at hlt hc
  exact { h with cursor := ⟨by simp only [Config.blockSize]; omega, by simp only; omega⟩ }

/-- The bits of a direction are clear unless its transfer runs. -/
theorem Sdhc.Consistent.read_bits (hx : d.xfer ≠ .read) :
    d.prsnt.getLsbD prsntBRE = false ∧ d.prsnt.getLsbD prsntRTA = false :=
  ⟨Bool.eq_false_iff.2 (mt h.bre hx), Bool.eq_false_iff.2 (mt h.rta.1 hx)⟩

theorem Sdhc.Consistent.write_bits (hx : d.xfer ≠ .write) :
    d.prsnt.getLsbD prsntBWE = false ∧ d.prsnt.getLsbD prsntWTA = false :=
  ⟨Bool.eq_false_iff.2 (mt h.bwe hx), Bool.eq_false_iff.2 (mt h.wta.1 hx)⟩

theorem Sdhc.Consistent.startRead (hx : d.xfer = .none) (hp : d.pos.toNat + 512 ≤ d.capacity.toNat) : d.startRead.Consistent := by
  obtain ⟨hbwe, hwta⟩ := h.write_bits (by simp [hx])
  rw [Sdhc.startRead_eq]
  constructor
  case cursor => exact cursor_zero_ok
  case inImage => exact fun _ => hp
  all_goals
    simp only [getLsbD_putBit, prsntBRE, prsntBWE, prsntRTA, prsntWTA] at *
    simp_all

theorem Sdhc.Consistent.startWrite (hx : d.xfer = .none) (hp : d.pos.toNat + 512 ≤ d.capacity.toNat) :
    d.startWrite.Consistent := by
  obtain ⟨hbre, hrta⟩ := h.read_bits (by simp [hx])
  rw [Sdhc.startWrite_eq]
  constructor
  case cursor => exact cursor_zero_ok
  case inImage => exact fun _ => hp
  all_goals
    simp only [getLsbD_putBit, prsntBRE, prsntBWE, prsntRTA, prsntWTA] at *
    simp_all

omit h in
theorem Sdhc.resetAll_consistent (cfg : Config) (d : Sdhc) : (d.resetAll cfg).Consistent := by
  refine Sdhc.consistent_of_none rfl cursor_zero_ok ?_ ?_ ?_ ?_ <;>
  simp [Sdhc.resetAll, Sdhc.construct, prsntBRE, prsntBWE, prsntRTA, prsntWTA]

omit h in
theorem Sdhc.resetData_consistent (d : Sdhc) : d.resetData.Consistent := by
  rw [Sdhc.resetData_eq]
  refine Sdhc.consistent_of_none rfl cursor_zero_ok ?_ ?_ ?_ ?_ <;>
  simp only [getLsbD_putBit, prsntBRE, prsntBWE, prsntRTA, prsntWTA, prsntDATINH] <;>
  simp

theorem Sdhc.Consistent.resetCommand : d.resetCommand.Consistent := by
  obtain ⟨hbre, hbwe, hrta, hwta, hcursor, hin⟩ := h
  refine ⟨?_, ?_, ?_, ?_, hcursor, hin⟩ <;>
  simp only [Sdhc.resetCommand, Sdhc.putPrsnt, Sdhc.putNists, getLsbD_putBit, prsntBRE, prsntBWE, prsntRTA, prsntWTA,
    prsntCMDINH] at * <;>
  simpa

theorem Sdhc.Consistent.softReset (cfg : Config) : (d.softReset cfg).Consistent := by
  have hclear {e : Sdhc} (he : e.Consistent) : ({ e with swrst := 0#8 } : Sdhc).Consistent := he.congr rfl rfl rfl rfl rfl
  unfold Sdhc.softReset
  dsimp only
  split
  · exact hclear (Sdhc.resetAll_consistent _ _)
  · split <;> split
    · exact hclear (Sdhc.resetData_consistent _)
    · exact hclear (Sdhc.resetData_consistent _)
    · exact hclear h.resetCommand
    · exact hclear h

/-- The end of a block leaves the transfer as it is, with both buffer-enabled bits clear (43_sdhc.md R278). -/
theorem Sdhc.Consistent.closeBlock :
    d.closeBlock.Consistent ∧ d.closeBlock.prsnt.getLsbD prsntBRE = false ∧ d.closeBlock.prsnt.getLsbD prsntBWE = false := by
  have hread := h.read_bits
  have hwrite := h.write_bits
  obtain ⟨hbre, hbwe, hrta, hwta, -, hin⟩ := h
  rw [Sdhc.closeBlock_eq]
  refine ⟨⟨?_, ?_, ?_, ?_, cursor_zero_ok, hin⟩, ?_, ?_⟩ <;>
  by_cases hx : d.xfer = .read <;>
  simp only [getLsbD_putBit, prsntBRE, prsntBWE, prsntRTA, prsntWTA, hx] at * <;>
  simp_all

theorem Sdhc.Consistent.idle (hbre : d.prsnt.getLsbD prsntBRE = false) (hbwe : d.prsnt.getLsbD prsntBWE = false) :
    d.idle.Consistent := by
  rw [Sdhc.idle_eq]
  refine Sdhc.consistent_of_none rfl h.cursor ?_ ?_ ?_ ?_ <;>
  simp only [getLsbD_putBit, prsntBRE, prsntBWE, prsntRTA, prsntWTA] at * <;>
  simp_all

theorem Sdhc.Consistent.advance (hx : d.xfer ≠ .none) (hp : d.pos.toNat + 512 + 512 ≤ d.capacity.toNat)
    (hbre : d.prsnt.getLsbD prsntBRE = false) (hbwe : d.prsnt.getLsbD prsntBWE = false) : d.advance.Consistent := by
  have hin : (d.pos + 512#64).toNat + Config.blockSize ≤ d.capacity.toNat := by
    rw [toNat_pos_add_block hp]
    exact hp
  obtain ⟨-, -, hrta, hwta, hcursor, -⟩ := h
  by_cases hread : d.xfer = .read
  · rw [Sdhc.advance_of_read hread]
    refine ⟨fun _ => hread, ?_, ?_, ?_, hcursor, fun _ => hin⟩ <;>
    simp only [getLsbD_putBit, prsntBRE, prsntBWE, prsntRTA, prsntWTA] at * <;>
    simp_all
  · have hwrite : d.xfer = .write := by
      cases hd : d.xfer with
      | none => exact absurd hd hx
      | read => exact absurd hd hread
      | write => rfl
    rw [Sdhc.advance_of_not_read hread]
    refine ⟨?_, fun _ => hwrite, ?_, ?_, hcursor, fun _ => hin⟩ <;>
    simp only [getLsbD_putBit, prsntBRE, prsntBWE, prsntRTA, prsntWTA] at * <;>
    simp_all

end Consistent

/-- Every SDHC operation keeps the transfer state consistent. -/
theorem SdhcMove.consistent {cfg : Config} {d e : Sdhc} (h : SdhcMove cfg d e) (hd : d.Consistent) : e.Consistent := by
  induction h with
  | same => exact hd
  | byte r i b _ ih => cases r <;> exact ih.congr rfl rfl rfl rfl rfl
  | reset _ ih => exact ih.softReset cfg
  | complete _ ih =>
    unfold Sdhc.commandComplete
    split
    · exact ih.congr rfl rfl rfl rfl rfl
    · exact ih
  | transferComplete _ ih =>
    unfold Sdhc.transferComplete
    split
    · exact ih.congr rfl rfl rfl rfl rfl
    · exact ih
  | seek hx _ ih => exact { ih with inImage := fun hne => absurd hx hne }
  | startRead hx hp _ ih => exact ih.startRead hx hp
  | startWrite hx hp _ ih => exact ih.startWrite hx hp
  | word hc _ ih => exact ih.word hc
  | store _ _ _ ih | writeBack _ _ ih | line _ _ ih => exact ih.congr rfl rfl rfl rfl rfl
  | closeIdle k _ ih =>
    obtain ⟨hclosed, hbre, hbwe⟩ := ih.closeBlock
    exact Sdhc.closeBlock_setCursor _ k ▸ hclosed.idle hbre hbwe
  | closeAdvance k hx hp _ ih =>
    obtain ⟨hclosed, hbre, hbwe⟩ := ih.closeBlock
    exact Sdhc.closeBlock_setCursor _ k ▸ hclosed.advance (by simpa using hx) (by simpa using hp) hbre hbwe

/-- Settles O8: each SDHC operation keeps the consistency, the capacity tests of R273 and R278 placing the block in the image. -/
theorem sdhcTransferStaysConsistent : Obligations.SdhcTransferStaysConsistent := fun _ _ hs h =>
  step_keeps (P := fun s => s.sdhc.Consistent) (fun _ _ hs => hs) (fun _ _ hs he => he.sdhc.consistent hs) h hs

/-! ### O16: what can change the image (43_sdhc.md R277, R280) -/

/-- If the result is a next state, its SD image is that of `s`. -/
def KeepsImage (s : State) (r : Result) : Prop := ∀ t, r = .next t → t.sdhc.image = s.sdhc.image

section KeepsImage

variable {s u : State}

theorem okLoad_keepsImage (n : Nat) (v : DWord) (h : u.sdhc.image = s.sdhc.image) : KeepsImage s (okLoad n v u) :=
  fun _ ht => okLoad_next.1 ht ▸ h

theorem okStore_keepsImage (h : u.sdhc.image = s.sdhc.image) : KeepsImage s (okStore u) :=
  fun _ ht => okStore_next.1 ht ▸ h

theorem failUnmapped_keepsImage (h : u.sdhc.image = s.sdhc.image) : KeepsImage s (failUnmapped u) :=
  fun _ ht => failUnmapped_next.1 ht ▸ h

theorem refused_keepsImage (s : State) (r : Refusal) : KeepsImage s (.refused r) := fun _ ht => by cases ht

theorem holeLoad_keepsImage (p : HolePolicy) (n : Nat) (s : State) : KeepsImage s (holeLoad p n s) := by
  cases p
  · exact okLoad_keepsImage n _ rfl
  · exact failUnmapped_keepsImage rfl

theorem holeStore_keepsImage (p : HolePolicy) (s : State) : KeepsImage s (holeStore p s) := by
  cases p
  · exact okStore_keepsImage rfl
  · exact failUnmapped_keepsImage rfl

theorem KeepsImage.ite {p : Prop} [Decidable p] {r r' : Result} (h : KeepsImage s r) (h' : KeepsImage s r') :
    KeepsImage s (if p then r else r') := by
  split
  · exact h
  · exact h'

theorem KeepsImage.inRange {size off n : Nat} {r : Result} (h : KeepsImage s r) : KeepsImage s (inRange size off n s r) :=
  .ite h (failUnmapped_keepsImage rfl)

theorem uartLoaded_keepsImage (b : Byte) (h : u.sdhc.image = s.sdhc.image) : KeepsImage s (uartLoaded b u) :=
  okLoad_keepsImage 1 _ (by rwa [State.checkInt_sdhc])

theorem uartStored_keepsImage (h : u.sdhc.image = s.sdhc.image) : KeepsImage s (uartStored u) :=
  okStore_keepsImage (by rwa [State.checkInt_sdhc])

end KeepsImage

/-! #### The other devices' rows -/

theorem plicLoadRow_keepsImage {slot : PlicSlot} {i : Instr} (hrow : plicLoadRow slot = some i) (s : State) :
    KeepsImage s (exec i s) := by
  cases slot <;> cases hrow <;> refine .inRange ?_
  case priority =>
    exact .ite (okLoad_keepsImage 4 _ rfl) (.ite (okLoad_keepsImage 4 _ rfl) (holeLoad_keepsImage _ 4 s))
  case pending | enable | threshold | claim => exact .ite (holeLoad_keepsImage _ 4 s) (okLoad_keepsImage 4 _ rfl)

theorem plicStoreRow_keepsImage {slot : PlicSlot} {v : Word} {i : Instr} (hrow : plicStoreRow v slot = some i) (s : State) :
    KeepsImage s (exec i s) := by
  cases slot <;> cases hrow <;> refine .inRange ?_
  case priority => exact .ite (okStore_keepsImage rfl) (.ite (okStore_keepsImage rfl) (holeStore_keepsImage _ s))
  case pending | enable | threshold | claim => exact .ite (holeStore_keepsImage _ s) (okStore_keepsImage rfl)

theorem clintLoadRow_keepsImage {slot : ClintSlot} {i : Instr} (hrow : clintLoadRow slot = some i) (s : State) :
    KeepsImage s (exec i s) := by
  cases slot <;> cases hrow <;> refine .inRange ?_
  case msip | cmp64 | cmpLo | cmpHi => exact .ite (okLoad_keepsImage _ _ rfl) (holeLoad_keepsImage _ _ s)
  case time64 | timeLo | timeHi => exact okLoad_keepsImage _ _ (by rw [State.refreshTime_sdhc])

theorem clintStoreRow_keepsImage {slot : ClintSlot} {v : DWord} {i : Instr} (hrow : clintStoreRow v slot = some i) (s : State) :
    KeepsImage s (exec i s) := by
  cases slot <;> cases hrow <;> refine .inRange ?_
  case msip => exact .ite (okStore_keepsImage rfl) (holeStore_keepsImage _ s)
  case cmp64 | cmpLo | cmpHi => exact .ite (okStore_keepsImage (by rw [State.writeCmp_sdhc])) (holeStore_keepsImage _ s)
  case time64 | timeLo | timeHi => exact okStore_keepsImage (by rw [State.writeTime_sdhc])

theorem rbrLoad_keepsImage (s : State) : KeepsImage s (rbrLoad s) := by
  unfold rbrLoad
  split
  · exact uartLoaded_keepsImage _ rfl
  · exact uartLoaded_keepsImage _ rfl

theorem uartLoadRow_keepsImage {reg : UartReg} {i : Instr} (hrow : uartLoadRow reg = some i) (s : State) :
    KeepsImage s (exec i s) := by
  cases reg <;> cases hrow <;> refine .inRange ?_
  case rbr | dll => exact .ite (uartLoaded_keepsImage _ rfl) (rbrLoad_keepsImage s)
  case ier | dlm | lsr | psd => exact .ite (uartLoaded_keepsImage _ rfl) (uartLoaded_keepsImage _ rfl)
  case iir | lcr | mcr | msr | scr => exact uartLoaded_keepsImage _ rfl

theorem uartStoreRow_keepsImage {reg : UartReg} {v : Byte} {i : Instr} (hrow : uartStoreRow v reg = some i) (s : State) :
    KeepsImage s (exec i s) := by
  cases reg <;> cases hrow <;> refine .inRange ?_
  case thr | dll | ier | dlm | lsr | psd => exact .ite (uartStored_keepsImage rfl) (uartStored_keepsImage rfl)
  case fcr | lcr | mcr | msr | scr => exact uartStored_keepsImage rfl

/-! #### The SDHC's accesses -/

theorem bufdataLoad_keepsImage (s : State) : KeepsImage s (bufdataLoad s) := by
  refine .ite (okLoad_keepsImage 4 _ rfl) (.ite (refused_keepsImage s _) (okLoad_keepsImage 4 _ ?_))
  split <;> simp

theorem KeepsImage.sdhcGate {s : State} {r : Result} {off n : Nat} (h : KeepsImage s r) : KeepsImage s (sdhcGate off n s r) :=
  .inRange (.ite (failUnmapped_keepsImage rfl) (.ite (refused_keepsImage s _) (.ite (failUnmapped_keepsImage rfl) h)))

theorem sdhcLoad_keepsImage (off n : Nat) (s : State) : KeepsImage s (sdhcLoad off n s) :=
  .sdhcGate (.ite (bufdataLoad_keepsImage s) (okLoad_keepsImage n _ rfl))

/-- Of the stores only the one to the port writes the image: register writes and commands do not (43_sdhc.md R264). -/
theorem sdhcStore_keepsImage {off n : Nat} (hport : ¬(off = 0x20 ∧ n = 4)) (v : DWord) (s : State) :
    KeepsImage s (sdhcStore off n v s) := by
  refine .inRange (.ite (failUnmapped_keepsImage rfl) ?_)
  by_cases htouch : touchesBufdata off n = true
  · rw [if_pos ⟨htouch, hport⟩]
    exact refused_keepsImage s _
  · rw [if_neg fun h => htouch h.1, if_neg htouch]
    refine .ite (failUnmapped_keepsImage rfl) ?_
    split
    · exact refused_keepsImage s _
    · rename_i u hu
      refine okStore_keepsImage ?_
      rw [State.recomputeLine_sdhc]
      exact (storeCommand_move hu).2.image.trans (storeBytes_side s off n v).1

/-! #### Every transaction -/

theorem plic_keepsImage (off n : Nat) (v : DWord) (s : State) :
    KeepsImage s (plicLoad off n s) ∧ KeepsImage s (plicStore off n v s) := by
  refine ⟨.ite ?_ (refused_keepsImage s _), .ite ?_ (refused_keepsImage s _)⟩
  · split
    · exact plicLoadRow_keepsImage (slot := .priority _) rfl s
    · exact plicLoadRow_keepsImage (slot := .pending _) rfl s
    · exact plicLoadRow_keepsImage (slot := .enable _ _) rfl s
    · exact plicLoadRow_keepsImage (slot := .threshold _) rfl s
    · exact plicLoadRow_keepsImage (slot := .claim _) rfl s
    · exact holeLoad_keepsImage _ _ s
  · split
    · exact plicStoreRow_keepsImage (slot := .priority _) rfl s
    · exact plicStoreRow_keepsImage (slot := .pending _) (v := lowHalf v) rfl s
    · exact plicStoreRow_keepsImage (slot := .enable _ _) rfl s
    · exact plicStoreRow_keepsImage (slot := .threshold _) rfl s
    · exact plicStoreRow_keepsImage (slot := .claim _) rfl s
    · exact holeStore_keepsImage _ s

theorem clint_keepsImage (off n : Nat) (v : DWord) (s : State) :
    KeepsImage s (clintLoad off n s) ∧ KeepsImage s (clintStore off n v s) := by
  rcases clintSlot_hole_or_refuse_or_at s.cfg.numHarts off n with hhole | hrefuse | ⟨hfits, -⟩
  · obtain ⟨hload, hstore⟩ := clint_at_hole hhole v
    rw [hload, hstore]
    exact ⟨holeLoad_keepsImage _ n s, holeStore_keepsImage _ s⟩
  · obtain ⟨hload, hstore⟩ := clint_refuses_slot hrefuse v
    rw [hload, hstore]
    exact ⟨refused_keepsImage s _, refused_keepsImage s _⟩
  · obtain ⟨⟨i, hload⟩, j, hstore⟩ := clintRows_of_fits hfits v
    rw [clintLoad_eq_exec_row hload, clintStore_eq_exec_row hstore]
    exact ⟨clintLoadRow_keepsImage hload s, clintStoreRow_keepsImage hstore s⟩

theorem uart_keepsImage (off n : Nat) (v : DWord) (s : State) :
    KeepsImage s (uartLoad off n s) ∧ KeepsImage s (uartStore off n v s) := by
  by_cases hn : n = 1
  · subst hn
    cases hindex : uartIndex s.cfg.uartRegShift off with
    | none =>
      obtain ⟨hload, hstore⟩ := uart_at_hole hindex v
      rw [hload, hstore]
      exact ⟨holeLoad_keepsImage _ 1 s, holeStore_keepsImage _ s⟩
    | some k =>
      obtain ⟨hk, -⟩ := uartIndex_eq_some hindex
      obtain ⟨lreg, i, hlreg, hload⟩ := uartLoadReg_row hk s.uart.dlab
      obtain ⟨sreg, j, hsreg, hstore⟩ := uartStoreReg_row hk s.uart.dlab (v.setWidth 8)
      rw [uartLoad_eq_exec_row hindex (Option.bind_eq_some_iff.2 ⟨lreg, hlreg, hload⟩),
        uartStore_eq_exec_row hindex (Option.bind_eq_some_iff.2 ⟨sreg, hsreg, hstore⟩)]
      exact ⟨uartLoadRow_keepsImage hload s, uartStoreRow_keepsImage hstore s⟩
  · obtain ⟨hload, hstore⟩ := uart_refuses_width hn off v s
    rw [hload, hstore]
    exact ⟨refused_keepsImage s _, refused_keepsImage s _⟩

theorem other_keepsImage (id off n : Nat) (v : DWord) (s : State) :
    KeepsImage s (otherLoad id off n s) ∧ KeepsImage s (otherStore id off n v s) := by
  refine ⟨?_, ?_⟩
  · unfold otherLoad
    split
    · exact okLoad_keepsImage n _ rfl
    · exact failUnmapped_keepsImage rfl
    · exact refused_keepsImage s _
  · unfold otherStore
    split
    · exact okStore_keepsImage rfl
    · exact failUnmapped_keepsImage rfl
    · exact refused_keepsImage s _

theorem deviceLoad_keepsImage (d : Device) (off n : Nat) (s : State) : KeepsImage s (deviceLoad d off n s) := by
  cases d with
  | plic => exact (plic_keepsImage off n 0#64 s).1
  | clint => exact (clint_keepsImage off n 0#64 s).1
  | uart => exact (uart_keepsImage off n 0#64 s).1
  | sdhc => exact sdhcLoad_keepsImage off n s
  | bus => exact failUnmapped_keepsImage rfl
  | other id => exact (other_keepsImage id off n 0#64 s).1

theorem deviceStore_keepsImage {d : Device} {off n : Nat} (hport : ¬(d = .sdhc ∧ off = 0x20 ∧ n = 4)) (v : DWord) (s : State) :
    KeepsImage s (deviceStore d off n v s) := by
  cases d with
  | plic => exact (plic_keepsImage off n v s).2
  | clint => exact (clint_keepsImage off n v s).2
  | uart => exact (uart_keepsImage off n v s).2
  | sdhc => exact sdhcStore_keepsImage (fun h => hport ⟨rfl, h⟩) v s
  | bus => exact failUnmapped_keepsImage rfl
  | other id => exact (other_keepsImage id off n v s).2

theorem busLoad_keepsImage (addr : DWord) (n : Nat) (s : State) : KeepsImage s (exec (.busLoad addr n) s) := by
  refine .ite ?_ (refused_keepsImage s _)
  split
  · exact failUnmapped_keepsImage rfl
  · exact deviceLoad_keepsImage _ _ n s

theorem execBusAddDevice_keepsImage (on : Nat) (base : DWord) (d : Device) (s : State) :
    KeepsImage s (execBusAddDevice on base d s) := by
  intro t h
  unfold execBusAddDevice at h
  split_ifs at h
  injection h with h
  rw [← h]
  rfl

/-- A store through the buffer-data port, by its row or through the Bus. -/
def StoresToPort (s : State) (i : Instr) : Prop :=
  (∃ v, i = .sdhcBufdataSt v) ∨ ∃ addr v, i = .busStore addr 4 v ∧ s.route addr 4 = some (.sdhc, 0x20)

theorem busStore_keepsImage {addr v : DWord} {n : Nat} {s : State} (hport : ¬StoresToPort s (.busStore addr n v)) :
    KeepsImage s (exec (.busStore addr n v) s) := by
  refine .ite ?_ (refused_keepsImage s _)
  split
  next => exact failUnmapped_keepsImage rfl
  next d off hroute =>
    refine deviceStore_keepsImage ?_ v s
    rintro ⟨rfl, rfl, rfl⟩
    exact hport (.inr ⟨addr, v, rfl, hroute⟩)

/-- Every transaction but a store through the buffer-data port leaves the image alone. -/
theorem exec_keepsImage {i : Instr} {s : State} (hwf : i.wf = true) (hport : ¬StoresToPort s i) : KeepsImage s (exec i s) := by
  cases i with
  | busLoad addr n => exact busLoad_keepsImage addr n s
  | busStore addr n v => exact busStore_keepsImage hport
  | busAddDevice on base d => exact execBusAddDevice_keepsImage on base d s
  | busFindDevice addr => exact fun _ ht => Host.Outcome.next.inj ht ▸ rfl
  | plicPriorityLd k => exact plicLoadRow_keepsImage (slot := .priority k) rfl s
  | plicPendingLd w => exact plicLoadRow_keepsImage (slot := .pending w) rfl s
  | plicEnableLd c w => exact plicLoadRow_keepsImage (slot := .enable c w) rfl s
  | plicThresholdLd c => exact plicLoadRow_keepsImage (slot := .threshold c) rfl s
  | plicClaimLd c => exact plicLoadRow_keepsImage (slot := .claim c) rfl s
  | plicPrioritySt k v => exact plicStoreRow_keepsImage (slot := .priority k) rfl s
  | plicPendingSt w v => exact plicStoreRow_keepsImage (slot := .pending w) (v := v) rfl s
  | plicEnableSt c w v => exact plicStoreRow_keepsImage (slot := .enable c w) rfl s
  | plicThresholdSt c v => exact plicStoreRow_keepsImage (slot := .threshold c) rfl s
  | plicCompleteSt c v => exact plicStoreRow_keepsImage (slot := .claim c) rfl s
  | plicRaiseIrq k level => exact .ite (refused_keepsImage s _) (okStore_keepsImage rfl)
  | plicUpdate => exact okStore_keepsImage rfl
  | plicIntCheck c => exact .ite (refused_keepsImage s _) fun _ ht => Host.Outcome.next.inj ht ▸ rfl
  | clintMsipLd h => exact clintLoadRow_keepsImage (slot := .msip h) rfl s
  | clintMtimecmpLd64 h => exact clintLoadRow_keepsImage (slot := .cmp64 h) rfl s
  | clintMtimecmpLdLo h => exact clintLoadRow_keepsImage (slot := .cmpLo h) rfl s
  | clintMtimecmpLdHi h => exact clintLoadRow_keepsImage (slot := .cmpHi h) rfl s
  | clintMtimeLd64 => exact clintLoadRow_keepsImage (slot := .time64) rfl s
  | clintMtimeLdLo => exact clintLoadRow_keepsImage (slot := .timeLo) rfl s
  | clintMtimeLdHi => exact clintLoadRow_keepsImage (slot := .timeHi) rfl s
  | clintMsipSt h v => exact clintStoreRow_keepsImage (slot := .msip h) (v := v.setWidth 64) (by simp [clintStoreRow]) s
  | clintMtimecmpSt64 h v => exact clintStoreRow_keepsImage (slot := .cmp64 h) (v := v) rfl s
  | clintMtimecmpStLo h v => exact clintStoreRow_keepsImage (slot := .cmpLo h) (v := v.setWidth 64) (by simp [clintStoreRow]) s
  | clintMtimecmpStHi h v => exact clintStoreRow_keepsImage (slot := .cmpHi h) (v := v.setWidth 64) (by simp [clintStoreRow]) s
  | clintMtimeSt64 v => exact clintStoreRow_keepsImage (slot := .time64) (v := v) rfl s
  | clintMtimeStLo v => exact clintStoreRow_keepsImage (slot := .timeLo) (v := v.setWidth 64) (by simp [clintStoreRow]) s
  | clintMtimeStHi v => exact clintStoreRow_keepsImage (slot := .timeHi) (v := v.setWidth 64) (by simp [clintStoreRow]) s
  | clintIncrement d => exact okStore_keepsImage (by split <;> simp)
  | sdhcSysaddrLd j n | sdhcBlksizeLd j n | sdhcBlkcntLd j n | sdhcArgLd j n | sdhcXfermodeLd j n | sdhcCmdLd j n
  | sdhcRespLd j n | sdhcPrsntLd j n | sdhcHostctlLd j n | sdhcPwrctlLd j n | sdhcClkctlLd j n | sdhcToctlLd j n
  | sdhcSwrstLd j n | sdhcNistsLd j n | sdhcEistsLd j n | sdhcNistenLd j n | sdhcEistenLd j n | sdhcNisigenLd j n
  | sdhcEisigenLd j n | sdhcCapsLd j n | sdhcMaxcurLd j n | sdhcVersionLd j n | sdhcBufdataLd =>
    exact sdhcLoad_keepsImage _ _ s
  | sdhcSysaddrSt j n v | sdhcBlksizeSt j n v | sdhcBlkcntSt j n v | sdhcArgSt j n v | sdhcXfermodeSt j n v | sdhcCmdSt j n v
  | sdhcRespSt j n v | sdhcPrsntSt j n v | sdhcHostctlSt j n v | sdhcPwrctlSt j n v | sdhcClkctlSt j n v | sdhcToctlSt j n v
  | sdhcSwrstSt j n v | sdhcNistsSt j n v | sdhcEistsSt j n v | sdhcNistenSt j n v | sdhcEistenSt j n v | sdhcNisigenSt j n v
  | sdhcEisigenSt j n v | sdhcCapsSt j n v | sdhcMaxcurSt j n v | sdhcVersionSt j n v =>
    exact sdhcStore_keepsImage (SdhcReg.not_port (by decide) hwf) v s
  | sdhcBufdataSt v => exact absurd (.inl ⟨v, rfl⟩) hport
  | uartRbrLd => exact uartLoadRow_keepsImage (reg := .rbr) rfl s
  | uartDllLd => exact uartLoadRow_keepsImage (reg := .dll) rfl s
  | uartIerLd => exact uartLoadRow_keepsImage (reg := .ier) rfl s
  | uartDlmLd => exact uartLoadRow_keepsImage (reg := .dlm) rfl s
  | uartIirLd => exact uartLoadRow_keepsImage (reg := .iir) rfl s
  | uartLcrLd => exact uartLoadRow_keepsImage (reg := .lcr) rfl s
  | uartMcrLd => exact uartLoadRow_keepsImage (reg := .mcr) rfl s
  | uartLsrLd => exact uartLoadRow_keepsImage (reg := .lsr) rfl s
  | uartPsdLd => exact uartLoadRow_keepsImage (reg := .psd) rfl s
  | uartMsrLd => exact uartLoadRow_keepsImage (reg := .msr) rfl s
  | uartScrLd => exact uartLoadRow_keepsImage (reg := .scr) rfl s
  | uartThrSt v => exact uartStoreRow_keepsImage (reg := .thr) rfl s
  | uartDllSt v => exact uartStoreRow_keepsImage (reg := .dll) rfl s
  | uartIerSt v => exact uartStoreRow_keepsImage (reg := .ier) rfl s
  | uartDlmSt v => exact uartStoreRow_keepsImage (reg := .dlm) rfl s
  | uartFcrSt v => exact uartStoreRow_keepsImage (reg := .fcr) rfl s
  | uartLcrSt v => exact uartStoreRow_keepsImage (reg := .lcr) rfl s
  | uartMcrSt v => exact uartStoreRow_keepsImage (reg := .mcr) rfl s
  | uartLsrSt v => exact uartStoreRow_keepsImage (reg := .lsr) (v := v) rfl s
  | uartPsdSt v => exact uartStoreRow_keepsImage (reg := .psd) rfl s
  | uartMsrSt v => exact uartStoreRow_keepsImage (reg := .msr) (v := v) rfl s
  | uartScrSt v => exact uartStoreRow_keepsImage (reg := .scr) rfl s
  | uartPoll => exact uartStored_keepsImage rfl
  | uartHostInput bytes => exact okStore_keepsImage rfl

/-- Settles O16: only a store to the port writes the image, and it does so with the last word of a write block, at `pos`. -/
theorem imageChangesOnlyByWriteBack : Obligations.ImageChangesOnlyByWriteBack := by
  intro i s t a hwf h hne
  have hport : StoresToPort s i := by
    by_contra hport
    exact hne (by rw [exec_keepsImage hwf hport t h])
  rcases (exec_effect h).side.image with hsame | ⟨hxfer, hcursor, v, himage⟩
  · exact absurd (by rw [hsame]) hne
  · have hcopy : readByte t.sdhc.image a = _ :=
      (congrArg (readByte · a) himage).trans (readByte_copyBytes _ 0 s.sdhc.pos.toNat Config.blockSize s.sdhc.image a)
    have hin : s.sdhc.pos.toNat ≤ a ∧ a < s.sdhc.pos.toNat + Config.blockSize := by
      by_contra hout
      rw [if_neg hout] at hcopy
      exact hne hcopy
    exact ⟨hxfer, hcursor, hin.1, hin.2, hport⟩

end Sys2Proof.Machine
end

section
/-! PROOFS. The SDHC register bank (43_sdhc.md R260 to R264, R283, R284): loads (O48, O49), stores (O50, O51), and the mount gate
(O56). -/

namespace Sys2Proof.Machine

/-! ### Bytes of registers and values -/

section Bytes

variable {w : Nat} (v u : BitVec w) (i : Nat)

theorem getByte_and : getByte (v &&& u) i = getByte v i &&& getByte u i := BitVec.extractLsb'_and

theorem getByte_or : getByte (v ||| u) i = getByte v i ||| getByte u i := BitVec.extractLsb'_or

theorem getByte_not (h : 8 * i + 8 ≤ w) : getByte (~~~v) i = ~~~getByte v i := by
  apply BitVec.eq_of_getLsbD_eq
  intro k hk
  rw [getLsbD_getByte, BitVec.getLsbD_not, BitVec.getLsbD_not, getLsbD_getByte]
  simp [hk, show 8 * i + k < w by omega]

theorem getByte_of_le (h : w ≤ 8 * i) : getByte v i = 0#8 := by
  apply BitVec.eq_of_getLsbD_eq
  intro k hk
  rw [getLsbD_getByte, BitVec.getLsbD_of_ge _ _ (by omega)]
  simp

theorem getByte_setWidth {m : Nat} (h : 8 * i + 8 ≤ m) : getByte (v.setWidth m) i = getByte v i := by
  apply BitVec.eq_of_getLsbD_eq
  intro k hk
  rw [getLsbD_getByte, getLsbD_getByte, BitVec.getLsbD_setWidth]
  simp [show 8 * i + k < m by omega]

/-- Clearing bit 0 changes byte 0 alone. -/
theorem getByte_putBit_zero : getByte (putBit v 0 false) i = if i = 0 then getByte v 0 &&& 0xFE#8 else getByte v i := by
  apply BitVec.eq_of_getLsbD_eq
  intro k hk
  rw [getLsbD_getByte, getLsbD_putBit]
  by_cases hi : i = 0
  · subst hi
    rw [if_pos rfl, BitVec.getLsbD_and, getLsbD_getByte]
    interval_cases k <;> simp
    intro h
    simp [h]
  · rw [if_neg hi, getLsbD_getByte, if_neg (by omega)]

end Bytes

/-- A byte shifted to its place in a 64-bit value. -/
theorem getByte_shiftLeft_setWidth (b : Byte) {n : Nat} (hn : n < 8) (j : Nat) :
    getByte ((b.setWidth 64 : DWord) <<< (8 * n)) j = if j = n then b else 0#8 := by
  apply BitVec.eq_of_getLsbD_eq
  intro k hk
  rw [getLsbD_getByte, BitVec.getLsbD_shiftLeft, BitVec.getLsbD_setWidth]
  rcases Nat.lt_trichotomy j n with hlt | rfl | hgt
  · rw [if_neg hlt.ne]
    simp [show 8 * j + k < 8 * n by omega]
  · rw [if_pos rfl, Nat.add_sub_cancel_left]
    simp [hk, show 8 * j + k < 64 by omega, show k < 64 by omega]
  · rw [if_neg hgt.ne', BitVec.getLsbD_of_ge b _ (by omega)]
    simp

/-! ### The registers by byte (30_encoding.md R132, R145) -/

/-- A hole's offset is that of no register's byte. -/
theorem sdhcOwner_eq_none_iff {off : Nat} : sdhcOwner off = none ↔ ∀ r k, k < SdhcReg.len r → r.lo + k ≠ off := by
  constructor
  · rintro h r k hk rfl
    rw [sdhcOwner_lo r hk] at h
    cases h
  · intro h
    cases howner : sdhcOwner off with
    | none => rfl
    | some p =>
      obtain ⟨hk, hoff⟩ := sdhcOwner_eq_some (r := p.1) (j := p.2) howner
      exact absurd hoff (h _ _ hk)

theorem Sdhc.byteAt_reg (d : Sdhc) {r : SdhcReg} {k : Nat} (hk : k < r.len) : d.byteAt (r.lo + k) = d.regByte r k := by
  unfold Sdhc.byteAt
  rw [sdhcOwner_lo r hk]

theorem Sdhc.byteAt_hole (d : Sdhc) {off : Nat} (h : sdhcOwner off = none) : d.byteAt off = 0#8 := by
  unfold Sdhc.byteAt
  rw [h]

theorem Sdhc.putByteAt_reg (d : Sdhc) {r : SdhcReg} {k : Nat} (hk : k < r.len) (b : Byte) :
    d.putByteAt (r.lo + k) b = d.putRegByte r k b := by
  unfold Sdhc.putByteAt
  rw [sdhcOwner_lo r hk]

theorem Sdhc.putByteAt_hole (d : Sdhc) {off : Nat} (h : sdhcOwner off = none) (b : Byte) : d.putByteAt off b = d := by
  unfold Sdhc.putByteAt
  rw [h]

theorem Sdhc.valueAt_succ (d : Sdhc) (off n : Nat) :
    d.valueAt off (n + 1) = d.valueAt off n ||| ((d.byteAt (off + n)).setWidth 64 <<< (8 * n)) := rfl

theorem Sdhc.putValueAt_succ (d : Sdhc) (off n : Nat) (v : DWord) :
    d.putValueAt off (n + 1) v = (d.putValueAt off n v).putByteAt (off + n) (getByte v n) := rfl

/-- The value of an access is its bytes, little-endian. -/
theorem Sdhc.getByte_valueAt (d : Sdhc) (off : Nat) {n : Nat} (hn : n ≤ 8) (j : Nat) :
    getByte (d.valueAt off n) j = if j < n then d.byteAt (off + j) else 0#8 := by
  induction n with
  | zero => simp [Sdhc.valueAt, getByte]
  | succ n ih =>
    rw [Sdhc.valueAt_succ, getByte_or, ih (by omega), getByte_shiftLeft_setWidth _ hn]
    rcases Nat.lt_trichotomy j n with hlt | rfl | hgt
    · simp [hlt, hlt.ne, show j < n + 1 by omega]
    · simp
    · simp [hgt.ne', hgt.not_gt, show ¬j < n + 1 by omega]

/-! ### SDHC accesses by row and through the Bus -/

theorem SdhcLoads.exec_eq {s : State} {off n : Nat} {i : Instr} (h : SdhcLoads s off n i) (hn : n = 1 ∨ n = 2 ∨ n = 4 ∨ n = 8) :
    exec i s = sdhcLoad off n s := by
  rcases h with ⟨r, k, hr, -, rfl, rfl⟩ | ⟨addr, hroute, rfl⟩
  · exact (sdhcLoad_eq_exec_row (fun h => absurd h hr) s).symm
  · exact exec_busLoad_of_route (lenOk_iff.2 hn) hroute

theorem SdhcStores.exec_eq {s : State} {off n : Nat} {v : DWord} {i : Instr} (h : SdhcStores s off n v i)
    (hn : n = 1 ∨ n = 2 ∨ n = 4 ∨ n = 8) : exec i s = sdhcStore off n v s := by
  rcases h with ⟨r, k, hr, -, rfl, rfl⟩ | ⟨addr, hroute, rfl⟩
  · exact (sdhcStore_eq_exec_row (fun h => absurd h hr) v s).symm
  · exact exec_busStore_of_route (lenOk_iff.2 hn) hroute v

theorem sdhcLoad_of_registers {off n : Nat} {s : State} (hopen : SdhcOpen s off n) (hbeside : off + n ≤ 0x20 ∨ 0x24 ≤ off) :
    sdhcLoad off n s = okLoad n (s.sdhc.valueAt off n) s := by
  unfold sdhcLoad
  rw [sdhcGate_open hopen hbeside, if_neg (by simp [touchesBufdata_eq_false hbeside])]

/-! ### O48, O49: register loads -/

/-- Settles O48: the answer's bytes are those of the registers that own the offsets, and holes read 0. -/
theorem sdhcRegisterLoads : Obligations.SdhcRegisterLoads := by
  intro s i off n hloads hn hbeside hopen
  have hbyte (j : Nat) (hj : j < n) : getByte (s.sdhc.valueAt off n) j = s.sdhc.byteAt (off + j) :=
    (s.sdhc.getByte_valueAt off (by omega) j).trans (if_pos hj)
  rw [hloads.exec_eq hn, sdhcLoad_of_registers hopen hbeside]
  refine ⟨_, _, rfl, .respond _ s, s.sdhc.valueAt_lt off n, fun j hj r k hk hoff => ?_, fun j hj hhole => ?_⟩
  · rw [hbyte j hj, ← hoff, s.sdhc.byteAt_reg hk]
  · rw [hbyte j hj, s.sdhc.byteAt_hole (sdhcOwner_eq_none_iff.2 hhole)]

/-- A value with the accessed bytes is the access's value. -/
theorem Sdhc.valueAt_eq {w n : Nat} (d : Sdhc) (off : Nat) (v : BitVec w) (hw : w = 8 * n) (hn : n ≤ 8)
    (h : ∀ j, j < n → d.byteAt (off + j) = getByte v j) : d.valueAt off n = v.setWidth 64 := by
  refine eq_of_getByte _ _ fun j hj => ?_
  rw [d.getByte_valueAt off hn, getByte_setWidth v j (by omega)]
  split
  · exact h j ‹_›
  · exact (getByte_of_le v j (by omega)).symm

theorem getByte_append_low {m w : Nat} (hi : BitVec m) (lo : BitVec w) {j : Nat} (h : 8 * j + 8 ≤ w) :
    getByte (hi ++ lo) j = getByte lo j := by
  apply BitVec.eq_of_getLsbD_eq
  intro k hk
  rw [getLsbD_getByte, getLsbD_getByte, BitVec.getLsbD_append, if_pos (by omega)]

theorem getByte_append_high {m n : Nat} (hi : BitVec m) (lo : BitVec (8 * n)) (j : Nat) :
    getByte (hi ++ lo) (n + j) = getByte hi j := by
  apply BitVec.eq_of_getLsbD_eq
  intro k hk
  rw [getLsbD_getByte, getLsbD_getByte, BitVec.getLsbD_append, if_neg (by omega)]
  congr 2
  omega

/-- An access that covers bytes of registers only covers no hole. -/
theorem coversHole_eq_false {off n : Nat} (h : ∀ j, j < n → ∃ r k, k < SdhcReg.len r ∧ r.lo + k = off + j) :
    coversHole off n = false := by
  refine List.any_eq_false.2 fun j hj => ?_
  obtain ⟨r, k, hk, hoff⟩ := h j (List.mem_range.1 hj)
  rw [← hoff, sdhcOwner_lo r hk]
  simp

/-- The bank ends at offset 0x100 (30_encoding.md R145). -/
theorem SdhcReg.lo_add_len_le (r : SdhcReg) : r.lo + r.len ≤ 0x100 := by cases r <;> decide

/-- An access inside a register of a mounted SDHC passes the gate. -/
theorem SdhcOpen.of_register {s : State} (hmounted : s.sdhc.mounted = true) (hsize : 0x100 ≤ s.cfg.sdhcSize) {r : SdhcReg} {k n : Nat}
    (h : k + n ≤ r.len) : SdhcOpen s (r.lo + k) n := by
  have hend := SdhcReg.lo_add_len_le r
  have hhole := coversHole_eq_false (off := r.lo + k) (n := n) fun j hj => ⟨r, k + j, by omega, by omega⟩
  exact ⟨by omega, hmounted, fun h => by rw [hhole] at h; cases h⟩

/-- Registers other than `BUFDATA` lie beside it. -/
theorem SdhcReg.beside_port {r : SdhcReg} (hr : r ≠ .bufdata) : r.lo + r.len ≤ 0x20 ∨ 0x24 ≤ r.lo := by
  cases r
  case bufdata => exact absurd rfl hr
  all_goals decide

section WholeLoads

variable {s : State} (hmounted : s.sdhc.mounted = true) (hsize : 0x100 ≤ s.cfg.sdhcSize)
include hmounted hsize

/-- A load inside a register answers the value `v` of the loaded bytes. -/
theorem exec_ldInstr_of_bytes {r : SdhcReg} (hr : r ≠ .bufdata) {k n w : Nat} (v : BitVec w) (hw : w = 8 * n) (hn : n ≤ 8)
    (hin : k + n ≤ r.len) (h : ∀ j, j < n → s.sdhc.regByte r (k + j) = getByte v j) :
    ∃ t, exec (r.ldInstr k n) s = .next t ∧ Answered [] (.loaded n (v.setWidth 64)) s t := by
  have hbeside := SdhcReg.beside_port hr
  have hvalue := s.sdhc.valueAt_eq (r.lo + k) v hw hn fun j hj => by
    rw [Nat.add_assoc, s.sdhc.byteAt_reg (by omega), h j hj]
  rw [← sdhcLoad_eq_exec_row (fun h => absurd h hr),
    sdhcLoad_of_registers (.of_register hmounted hsize hin) (by omega), hvalue]
  exact okLoad_answered n _ s

/-- A load of a whole register answers its value. -/
theorem exec_ldInstr_whole {r : SdhcReg} (hr : r ≠ .bufdata) {w : Nat} (v : BitVec w) (hw : w = 8 * r.len) (hn : r.len ≤ 8)
    (h : ∀ j, s.sdhc.regByte r j = getByte v j) :
    ∃ t, exec (r.ldInstr 0 r.len) s = .next t ∧ Answered [] (.loaded r.len (v.setWidth 64)) s t :=
  exec_ldInstr_of_bytes hmounted hsize hr v hw hn (by omega) fun j _ => by rw [Nat.zero_add, h j]

/-- `XFERMODE` and `CMD` in one load. -/
theorem exec_xfermodeLd_word :
    ∃ t, exec (.sdhcXfermodeLd 0 4) s = .next t ∧
      Answered [] (.loaded 4 ((s.sdhc.cmd ++ s.sdhc.xfermode).setWidth 64)) s t := by
  have hopen : SdhcOpen s 0x0C 4 := ⟨by omega, hmounted, fun h => absurd h (by decide)⟩
  have hvalue := s.sdhc.valueAt_eq 0x0C (n := 4) (s.sdhc.cmd ++ s.sdhc.xfermode) rfl (by decide) fun j hj => by
    by_cases hlow : j < 2
    · rw [getByte_append_low _ _ (by omega)]
      exact s.sdhc.byteAt_reg (r := .xfermode) hlow
    · obtain ⟨k, rfl⟩ : ∃ k, j = 2 + k := ⟨j - 2, by omega⟩
      rw [← Nat.add_assoc]
      refine (s.sdhc.byteAt_reg (r := .cmd) (show k < 2 by omega)).trans ?_
      exact (getByte_append_high (n := 2) s.sdhc.cmd s.sdhc.xfermode k).symm
  show ∃ t, sdhcLoad 0x0C 4 s = .next t ∧ _
  rw [sdhcLoad_of_registers hopen (by decide), hvalue]
  exact okLoad_answered 4 _ s

end WholeLoads

/-- The low and the high half of `RESP`. -/
theorem Sdhc.regByte_resp_low (d : Sdhc) {j : Nat} (hj : j < 8) :
    d.regByte .resp j = getByte (d.resp1 ++ d.resp0 : DWord) j := by
  show getByte (d.resp3 ++ d.resp2 ++ d.resp1 ++ d.resp0) j = _
  by_cases hlow : j < 4
  · rw [getByte_append_low _ _ (by omega), getByte_append_low _ _ (by omega)]
  · obtain ⟨k, rfl⟩ : ∃ k, j = 4 + k := ⟨j - 4, by omega⟩
    exact (getByte_append_high (n := 4) _ d.resp0 k).trans
      ((getByte_append_low _ d.resp1 (by omega)).trans (getByte_append_high (n := 4) d.resp1 d.resp0 k).symm)

theorem Sdhc.regByte_resp_high (d : Sdhc) (j : Nat) :
    d.regByte .resp (8 + j) = getByte (d.resp3 ++ d.resp2 : DWord) j := by
  show getByte (d.resp3 ++ d.resp2 ++ d.resp1 ++ d.resp0) (8 + j) = _
  rw [show 8 + j = 4 + (4 + j) by omega]
  exact (getByte_append_high (n := 4) _ d.resp0 (4 + j)).trans (getByte_append_high (n := 4) _ d.resp1 j)

/-- Settles O49: whole registers, the halves of `RESP`, and `XFERMODE` with `CMD`. -/
theorem sdhcWholeRegisterLoads : Obligations.SdhcWholeRegisterLoads := by
  intro s hmounted hsize p hp
  have whole {r : SdhcReg} (hr : r ≠ .bufdata) {w : Nat} (v : BitVec w) := exec_ldInstr_whole hmounted hsize hr v
  have resp {k n : Nat} (v : DWord) := exec_ldInstr_of_bytes hmounted hsize (r := .resp) (by decide) (k := k) (n := n) v
  simp only [List.mem_cons, List.not_mem_nil, or_false] at hp
  rcases hp with rfl | rfl | rfl | rfl | rfl | rfl | rfl | rfl | rfl | rfl | rfl | rfl | rfl | rfl | rfl | rfl | rfl | rfl | rfl |
    rfl | rfl | rfl | rfl | rfl
  · exact whole (r := .sysaddr) (by decide) _ rfl (by decide) fun _ => rfl
  · exact whole (r := .blksize) (by decide) _ rfl (by decide) fun _ => rfl
  · exact whole (r := .blkcnt) (by decide) _ rfl (by decide) fun _ => rfl
  · exact whole (r := .arg) (by decide) _ rfl (by decide) fun _ => rfl
  · exact whole (r := .xfermode) (by decide) _ rfl (by decide) fun _ => rfl
  · exact whole (r := .cmd) (by decide) _ rfl (by decide) fun _ => rfl
  · exact exec_xfermodeLd_word hmounted hsize
  · exact BitVec.setWidth_eq (s.sdhc.resp1 ++ s.sdhc.resp0) ▸
      resp (k := 0) _ rfl (by decide) (by decide) fun j hj => (Nat.zero_add j).symm ▸ s.sdhc.regByte_resp_low hj
  · exact BitVec.setWidth_eq (s.sdhc.resp3 ++ s.sdhc.resp2) ▸
      resp (k := 8) _ rfl (by decide) (by decide) fun j _ => s.sdhc.regByte_resp_high j
  · exact whole (r := .prsnt) (by decide) _ rfl (by decide) fun _ => rfl
  · exact whole (r := .hostctl) (by decide) _ rfl (by decide) fun _ => rfl
  · exact whole (r := .pwrctl) (by decide) _ rfl (by decide) fun _ => rfl
  · exact whole (r := .clkctl) (by decide) _ rfl (by decide) fun _ => rfl
  · exact whole (r := .toctl) (by decide) _ rfl (by decide) fun _ => rfl
  · exact whole (r := .swrst) (by decide) _ rfl (by decide) fun _ => rfl
  · exact whole (r := .nists) (by decide) s.sdhc.nistsRead rfl (by decide) fun _ => rfl
  · exact whole (r := .eists) (by decide) _ rfl (by decide) fun _ => rfl
  · exact whole (r := .nisten) (by decide) _ rfl (by decide) fun _ => rfl
  · exact whole (r := .eisten) (by decide) _ rfl (by decide) fun _ => rfl
  · exact whole (r := .nisigen) (by decide) _ rfl (by decide) fun _ => rfl
  · exact whole (r := .eisigen) (by decide) _ rfl (by decide) fun _ => rfl
  · exact BitVec.setWidth_eq s.sdhc.caps ▸ whole (r := .caps) (by decide) _ rfl (by decide) fun _ => rfl
  · exact BitVec.setWidth_eq s.sdhc.maxcur ▸ whole (r := .maxcur) (by decide) _ rfl (by decide) fun _ => rfl
  · exact whole (r := .version) (by decide) _ rfl (by decide) fun _ => rfl

/-! ### What a write of register bytes leaves alone -/

/-- The two states agree on all that is no writable register (43_sdhc.md R260, R261). -/
structure Sdhc.SameTransfer (d e : Sdhc) : Prop where
  mounted : e.mounted = d.mounted
  capacity : e.capacity = d.capacity
  image : e.image = d.image
  pos : e.pos = d.pos
  buf : e.buf = d.buf
  cursor : e.cursor = d.cursor
  xfer : e.xfer = d.xfer
  line : e.line = d.line

theorem Sdhc.SameTransfer.refl (d : Sdhc) : d.SameTransfer d := ⟨rfl, rfl, rfl, rfl, rfl, rfl, rfl, rfl⟩

theorem Sdhc.SameTransfer.putRegByte {d e : Sdhc} (h : d.SameTransfer e) (r : SdhcReg) (i : Nat) (b : Byte) :
    d.SameTransfer (e.putRegByte r i b) := by
  obtain ⟨hmounted, hcapacity, himage, hpos, hbuf, hcursor, hxfer, hline⟩ := h
  cases r <;> exact ⟨hmounted, hcapacity, himage, hpos, hbuf, hcursor, hxfer, hline⟩

/-- What each write of a register's byte keeps, a store's writes keep. -/
theorem Sdhc.putValueAt_keeps {P : Sdhc → Prop} {d : Sdhc} (off n : Nat) (v : DWord) (hd : P d)
    (hput : ∀ e r i b, P e → P (e.putRegByte r i b)) : P (d.putValueAt off n v) := by
  refine loopTo_keeps P _ n d hd fun j e he => ?_
  show P (e.putByteAt (off + j) (getByte v j))
  unfold Sdhc.putByteAt
  split
  · exact hput _ _ _ _ he
  · exact he

theorem Sdhc.putValueAt_sameTransfer (d : Sdhc) (off n : Nat) (v : DWord) : d.SameTransfer (d.putValueAt off n v) :=
  Sdhc.putValueAt_keeps off n v (.refl d) fun _ r i b he => he.putRegByte r i b

/-- The DMA bit stays clear (43_sdhc.md R283). -/
theorem Sdhc.putRegByte_dma {d : Sdhc} (h : d.xfermode.getLsbD 0 = false) (r : SdhcReg) (i : Nat) (b : Byte) :
    (d.putRegByte r i b).xfermode.getLsbD 0 = false := by
  cases r with
  | xfermode => exact (getLsbD_putBit _ _ _ _).trans (if_pos ⟨rfl, by decide⟩)
  | _ => exact h

theorem Sdhc.putValueAt_dma {d : Sdhc} (h : d.xfermode.getLsbD 0 = false) (off n : Nat) (v : DWord) :
    (d.putValueAt off n v).xfermode.getLsbD 0 = false :=
  Sdhc.putValueAt_keeps (P := fun e => e.xfermode.getLsbD 0 = false) off n v h fun _ r i b he => Sdhc.putRegByte_dma he r i b

/-! ### O50: the write rules, byte by byte -/

theorem Sdhc.stored_putRegByte_of_ne (d : Sdhc) {r r' : SdhcReg} (h : r' ≠ r) (i k : Nat) (b : Byte) :
    (d.putRegByte r i b).stored r' k = d.stored r' k := by
  cases r <;> cases r' <;> first | exact absurd rfl h | rfl

/-- A byte whose bit 0 is clear. -/
theorem and_fe_of_bit_zero {b : Byte} (h : b.getLsbD 0 = false) : b &&& 0xFE#8 = b := by
  apply BitVec.eq_of_getLsbD_eq
  intro k hk
  rw [BitVec.getLsbD_and]
  interval_cases k <;> simp_all

/-- Bytes of a status register after a write-1-to-clear of one byte (43_sdhc.md R284). -/
theorem getByte_clear (x mask : Half) {i k : Nat} (hi : i < 2) (hk : k < 2) (b : Byte) :
    getByte (x &&& ~~~(putByte 0#16 i b &&& mask)) k =
      if k = i then getByte x i &&& ~~~(b &&& getByte mask i) else getByte x k := by
  rw [getByte_and, getByte_not _ _ (by omega), getByte_and, getByte_putByte _ _ _ _ (by omega)]
  split
  · subst k
    rfl
  · have hzero : getByte 0#16 k = 0#8 := by simp [getByte]
    rw [hzero, BitVec.zero_and, BitVec.not_zero, BitVec.and_allOnes]

/-- Bytes of the transfer mode after a write of one byte: the DMA bit is masked (43_sdhc.md R283). -/
theorem getByte_putXfermode {x : Half} (hx : x.getLsbD 0 = false) {i k : Nat} (hi : i < 2) (b : Byte) :
    getByte (putBit (putByte x i b) 0 false) k = if k = i then (if i = 0 then b &&& 0xFE#8 else b) else getByte x k := by
  have hold : getByte x 0 &&& 0xFE#8 = getByte x 0 := and_fe_of_bit_zero (by rw [getLsbD_getByte]; simpa using hx)
  rw [getByte_putBit_zero, getByte_putByte _ _ _ _ (by omega), getByte_putByte _ _ _ _ (by omega)]
  split
  · subst k
    rw [apply_ite (· &&& 0xFE#8), hold]
    split
    · subst i
      rfl
    · rfl
  · split
    · rw [if_neg (by omega)]
    · rfl

/-- A write of byte `i` of a register changes that byte, by the register's rule. -/
theorem Sdhc.stored_putRegByte_same (d : Sdhc) {r : SdhcReg} {i k : Nat} (hi : i < r.len) (hk : k < r.len) (b : Byte)
    (hdma : r = .xfermode → d.xfermode.getLsbD 0 = false) :
    (d.putRegByte r i b).stored r k = if k = i then writtenByte r i (d.stored r i) b else d.stored r k := by
  cases r with
  | sysaddr | blksize | blkcnt | arg | cmd | hostctl | pwrctl | clkctl | toctl | swrst | nisten | eisten | nisigen | eisigen =>
    exact getByte_putByte _ _ _ _ (by simp only [SdhcReg.len] at hi; omega)
  | resp | bufdata | prsnt | caps | maxcur | version =>
    show _ = if k = i then d.stored _ i else d.stored _ k
    split
    · subst k
      rfl
    · rfl
  | xfermode => exact getByte_putXfermode (hdma rfl) hi b
  | nists =>
    refine (getByte_clear d.nists 0x7FFF#16 hi hk b).trans ?_
    have hmask : b &&& getByte 0x7FFF#16 i = if i = 1 then b &&& 0x7F#8 else b := by
      simp only [SdhcReg.len] at hi
      interval_cases i
      · exact BitVec.and_allOnes
      · rfl
    rw [hmask]
    rfl
  | eists =>
    have hall : putByte 0#16 i b &&& BitVec.allOnes 16 = putByte 0#16 i b := BitVec.and_allOnes
    have hmask : b &&& getByte (BitVec.allOnes 16) i = b := by
      simp only [SdhcReg.len] at hi
      interval_cases i <;> exact BitVec.and_allOnes
    have hclear := getByte_clear d.eists (BitVec.allOnes 16) hi hk b
    rw [hall, hmask] at hclear
    exact hclear

/-- A store's bytes: each covered one is written under its register's rule, every other one is as before. -/
theorem Sdhc.stored_putValueAt (d : Sdhc) (off n : Nat) (v : DWord) {r : SdhcReg} {k : Nat} (hk : k < r.len)
    (hdma : r = .xfermode → d.xfermode.getLsbD 0 = false) :
    (d.putValueAt off n v).stored r k =
      if off ≤ r.lo + k ∧ r.lo + k < off + n then writtenByte r k (d.stored r k) (getByte v (r.lo + k - off))
      else d.stored r k := by
  induction n with
  | zero =>
    rw [if_neg (by omega)]
    rfl
  | succ n ih =>
    rw [Sdhc.putValueAt_succ]
    by_cases hat : r.lo + k = off + n
    · rw [if_neg (by omega)] at ih
      rw [if_pos (by omega), ← hat, Sdhc.putByteAt_reg _ hk, Sdhc.stored_putRegByte_same _ hk hk, if_pos rfl, ih, hat,
        Nat.add_sub_cancel_left]
      exact fun hr => Sdhc.putValueAt_dma (hdma hr) off n v
    · have hsame : (off ≤ r.lo + k ∧ r.lo + k < off + (n + 1)) ↔ (off ≤ r.lo + k ∧ r.lo + k < off + n) := by omega
      simp only [hsame, ← ih]
      cases howner : sdhcOwner (off + n) with
      | none => rw [Sdhc.putByteAt_hole _ howner]
      | some p =>
        obtain ⟨r', j⟩ := p
        obtain ⟨hj, hoff⟩ := sdhcOwner_eq_some howner
        rw [← hoff, Sdhc.putByteAt_reg _ hj]
        by_cases hr : r = r'
        · subst hr
          rw [Sdhc.stored_putRegByte_same _ hj hk, if_neg (by omega)]
          exact fun hr => Sdhc.putValueAt_dma (hdma hr) off n v
        · exact Sdhc.stored_putRegByte_of_ne _ hr _ _ _

/-! ### A store's answer -/

theorem Unchanged.refl (touched : List Block) (s : State) : Unchanged touched s s := ⟨rfl, rfl, fun b _ => by cases b <;> rfl⟩

/-- The answer of an access that changed only the SDHC and parts in `touched`, and then recomputed the line. -/
theorem SdhcAccess.of_recomputeLine {touched : List Block} {s u : State} (r : Response) (hu : Unchanged (.sdhc :: touched) s u)
    (hplic : u.plic = s.plic) (hline : u.sdhc.line = s.sdhc.line) : SdhcAccess touched r s (u.recomputeLine.respond r) := by
  obtain ⟨hcfg, hrequests, hsame⟩ := hu
  refine ⟨⟨rfl, rfl, ?_, ?_, fun b hb => ?_⟩, ?_, ?_⟩
  · simpa using hcfg
  · simpa using hrequests
  · simp only [List.mem_cons, not_or] at hb
    obtain ⟨hsdhc, hp, hb⟩ := hb
    have := hsame b (by simp [hsdhc, hb])
    cases b with
    | plic => exact absurd rfl hp
    | sdhc => exact absurd rfl hsdhc
    | bus | clint | uart | counters | draws => simpa [Block.same] using this
  · rw [State.respond_sdhc, State.recomputeLine_sdhc]
    rfl
  · rw [State.respond_plic, State.respond_sdhc, State.recomputeLine_plic, State.recomputeLine_sdhc, hcfg, hplic, hline]
    simp [Plic.signalled, Sdhc.level]

theorem Unchanged.setSdhc (s : State) (d : Sdhc) : Unchanged [.sdhc] s (s.setSdhc d) := by
  refine ⟨rfl, rfl, fun b hb => ?_⟩
  cases b with
  | sdhc => exact absurd (List.mem_singleton.2 rfl) hb
  | bus | plic | clint | uart | counters | draws => rfl

/-- A store beside `BUFDATA` past the gate, without a command: its bytes, a software reset, the line (43_sdhc.md R264). -/
theorem sdhcStore_of_registers {off n : Nat} {v : DWord} {s : State} (hopen : SdhcOpen s off n)
    (hbeside : off + n ≤ 0x20 ∨ 0x24 ≤ off) (hcommand : covers off n 0x0F = false) :
    sdhcStore off n v s = okStore (s.storeBytes off n v).recomputeLine := by
  have hissue : (s.storeBytes off n v).storeCommand off n = .ok (s.storeBytes off n v) := if_neg (by simp [hcommand])
  unfold sdhcStore
  rw [sdhcGate_open hopen hbeside, if_neg (by simp [touchesBufdata_eq_false hbeside]), hissue]

theorem State.storeBytes_of_no_reset {off n : Nat} {v : DWord} {s : State} (hreset : covers off n 0x2F = false) :
    s.storeBytes off n v = s.setSdhc (s.sdhc.putValueAt off n v) := by
  unfold State.storeBytes
  dsimp only
  rw [if_neg (by simp [hreset])]

/-- A store that covers neither the command nor the reset byte writes its bytes and recomputes the line. -/
theorem sdhcStore_plain {off n : Nat} {v : DWord} {s : State} (hopen : SdhcOpen s off n) (hbeside : off + n ≤ 0x20 ∨ 0x24 ≤ off)
    (hcommand : covers off n 0x0F = false) (hreset : covers off n 0x2F = false) :
    ∃ t, sdhcStore off n v s = .next t ∧ SdhcAccess [] .ok s t ∧
      t.sdhc = { s.sdhc.putValueAt off n v with line := t.sdhc.line } := by
  rw [sdhcStore_of_registers hopen hbeside hcommand, State.storeBytes_of_no_reset hreset]
  exact ⟨_, rfl, .of_recomputeLine .ok (.setSdhc s _) rfl (s.sdhc.putValueAt_sameTransfer off n v).line, by simp⟩

/-- Settles O50: each covered byte is written under its register's rule; only registers, the line and the PLIC change. -/
theorem sdhcRegisterStores : Obligations.SdhcRegisterStores := by
  intro s i off n v hstores hn hbeside hcommand hreset hopen hdma
  obtain ⟨t, ht, haccess, hsdhc⟩ := sdhcStore_plain (v := v) hopen hbeside hcommand hreset
  obtain ⟨hmounted, hcapacity, himage, hpos, hbuf, hcursor, hxfer, -⟩ := s.sdhc.putValueAt_sameTransfer off n v
  rw [hstores.exec_eq hn]
  refine ⟨t, ht, haccess, fun r k hk => ?_, ?_⟩
  · rw [← s.sdhc.stored_putValueAt off n v hk fun _ => hdma, hsdhc]
    cases r <;> rfl
  · rw [hsdhc]
    exact ⟨hmounted, hcapacity, himage, hpos, hbuf, hcursor, hxfer⟩

/-! ### O51: the transfer mode and the status registers -/

theorem getByte_two_eq {x y : Half} (h0 : getByte x 0 = getByte y 0) (h1 : getByte x 1 = getByte y 1) : x = y :=
  eq_of_getByte x y fun j hj => by
    have hj2 : j < 2 := by omega
    interval_cases j
    · exact h0
    · exact h1

/-- The two byte writes of a whole 2-byte register. -/
theorem Sdhc.putValueAt_half (d : Sdhc) {r : SdhcReg} (hr : 1 < r.len) (v : DWord) :
    d.putValueAt r.lo 2 v = (d.putRegByte r 0 (getByte v 0)).putRegByte r 1 (getByte v 1) := by
  rw [Sdhc.putValueAt_succ, Sdhc.putByteAt_reg _ hr, Sdhc.putValueAt_succ, Sdhc.putByteAt_reg _ (by omega)]
  rfl

theorem putXfermode_half (x : Half) (v : DWord) :
    putBit (putByte (putBit (putByte x 0 (getByte v 0)) 0 false) 1 (getByte v 1)) 0 false = v.setWidth 16 &&& 0xFFFE#16 := by
  have hdma : (putBit (putByte x 0 (getByte v 0)) 0 false).getLsbD 0 = false := by rw [getLsbD_putBit]; simp
  refine getByte_two_eq ?_ ?_
  · rw [getByte_putXfermode hdma (by decide), getByte_and, getByte_setWidth _ _ (by decide)]
    rw [getByte_putBit_zero, getByte_putByte _ _ _ _ (by decide)]
    rfl
  · rw [getByte_putXfermode hdma (by decide), getByte_and, getByte_setWidth _ _ (by decide)]
    exact BitVec.and_allOnes.symm

/-- Writing both bytes of a status register clears the bits written as 1. -/
theorem clear_half (x mask : Half) (v : DWord) :
    x &&& ~~~(putByte 0#16 0 (getByte v 0) &&& mask) &&& ~~~(putByte 0#16 1 (getByte v 1) &&& mask) =
      x &&& ~~~(v.setWidth 16 &&& mask) := by
  have hright (k : Nat) (hk : k < 2) : getByte (x &&& ~~~(v.setWidth 16 &&& mask)) k =
      getByte x k &&& ~~~(getByte v k &&& getByte mask k) := by
    rw [getByte_and, getByte_not _ _ (by omega), getByte_and, getByte_setWidth _ _ (by omega)]
  refine getByte_two_eq ?_ ?_ <;> rw [hright _ (by decide), getByte_clear _ _ (by decide) (by decide)]
  · rw [if_neg (by decide), getByte_clear _ _ (by decide) (by decide), if_pos rfl]
  · rw [if_pos rfl, getByte_clear _ _ (by decide) (by decide), if_neg (by decide)]

/-- Settles O51: both bytes of the register written by their rules, joined to the masked half-word. -/
theorem transferModeAndStatusStores : Obligations.TransferModeAndStatusStores := by
  intro s v hmounted hsize
  have hopen {r : SdhcReg} (h : r.len = 2) : SdhcOpen s r.lo 2 := .of_register hmounted hsize (k := 0) (by omega)
  refine ⟨?_, ?_, ?_⟩
  · obtain ⟨t, ht, haccess, hsdhc⟩ := sdhcStore_plain (v := v) (hopen (r := .xfermode) rfl) (by decide) (by decide) (by decide)
    refine ⟨t, ht, haccess, hsdhc.trans ?_⟩
    rw [Sdhc.putValueAt_half _ (by decide), ← putXfermode_half s.sdhc.xfermode v]
    rfl
  · obtain ⟨t, ht, haccess, hsdhc⟩ := sdhcStore_plain (v := v) (hopen (r := .nists) rfl) (by decide) (by decide) (by decide)
    refine ⟨t, ht, haccess, hsdhc.trans ?_⟩
    rw [Sdhc.putValueAt_half _ (by decide), ← clear_half s.sdhc.nists 0x7FFF#16 v]
    rfl
  · obtain ⟨t, ht, haccess, hsdhc⟩ := sdhcStore_plain (v := v) (hopen (r := .eists) rfl) (by decide) (by decide) (by decide)
    refine ⟨t, ht, haccess, hsdhc.trans ?_⟩
    rw [Sdhc.putValueAt_half _ (by decide)]
    have hclear := clear_half s.sdhc.eists (BitVec.allOnes 16) v
    rw [BitVec.and_allOnes, BitVec.and_allOnes, BitVec.and_allOnes] at hclear
    rw [← hclear]
    rfl

/-! ### O56: the mount gate -/

/-- An access while the image is not mounted fails, in range or not (43_sdhc.md R263). -/
theorem sdhcGate_unmounted {s : State} (h : s.sdhc.mounted = false) (off n : Nat) (r : Result) :
    sdhcGate off n s r = failUnmapped s := by
  unfold sdhcGate inRange
  rw [if_pos h, ite_self]

/-- Settles O56: every access meets the mount gate first. -/
theorem unmountedAccessesFail : Obligations.UnmountedAccessesFail := by
  intro s hmounted
  have hload (off n : Nat) : ∃ t, sdhcLoad off n s = .next t ∧ Answered [] .failed s t := by
    rw [sdhcLoad, sdhcGate_unmounted hmounted]
    exact failUnmapped_answered s
  have hstore (off n : Nat) (v : DWord) : ∃ t, sdhcStore off n v s = .next t ∧ Answered [] .failed s t := by
    rw [sdhcStore, sdhcGate_unmounted hmounted]
    exact failUnmapped_answered s
  refine ⟨fun r i n v => ?_, fun addr n off v hn hroute => ?_⟩
  · cases r <;> exact ⟨hload _ _, hstore _ _ _⟩
  · rw [exec_busLoad_of_route (lenOk_iff.2 hn) hroute, exec_busStore_of_route (lenOk_iff.2 hn) hroute]
    exact ⟨hload off n, hstore off n v⟩

end Sys2Proof.Machine
end

section
/-! PROOFS. SDHC commands (O52) and software resets (O53): 43_sdhc.md R264, R272 to R274, R282. -/

namespace Sys2Proof.Machine

/-! ### Bits set and cleared, as masks -/

theorem putBit_true {w : Nat} (v : BitVec w) (k : Nat) : putBit v k true = v ||| BitVec.twoPow w k := rfl

theorem putBit_false {w : Nat} (v : BitVec w) (k : Nat) : putBit v k false = v &&& ~~~BitVec.twoPow w k := rfl

theorem and_not_zero {w : Nat} (v : BitVec w) : v &&& ~~~0#w = v := by rw [BitVec.not_zero, BitVec.and_allOnes]

theorem toNat_extractLsb' {w : Nat} (v : BitVec w) (start len : Nat) :
    (v.extractLsb' start len).toNat = v.toNat / 2 ^ start % 2 ^ len := by
  rw [BitVec.extractLsb'_toNat, Nat.shiftRight_eq_div_pow]

theorem Sdhc.cmdIndex_eq (d : Sdhc) : d.cmdIndex = d.cmd.toNat / 256 % 64 := toNat_extractLsb' _ _ _

theorem Sdhc.blockSize_eq (d : Sdhc) : d.blockSize = d.blksize.toNat % 4096 := by
  rw [Sdhc.blockSize, toNat_extractLsb', Nat.pow_zero, Nat.div_one]
  rfl

/-! ### O52: commands (43_sdhc.md R272, R273, R274) -/

theorem Sdhc.commandComplete_eq (d : Sdhc) : d.commandComplete =
    { d with nists := d.nists ||| (if d.nisten.getLsbD 0 = true then 0x0001#16 else 0#16) } := by
  unfold Sdhc.commandComplete nistsCC
  split
  · rfl
  · rw [BitVec.or_zero]

theorem Sdhc.startRead_masks (d : Sdhc) : d.startRead = { d with
    buf := copyBytes d.image d.pos.toNat 0 Config.blockSize d.buf, cursor := 0, xfer := .read
    prsnt := d.prsnt ||| 0x00000A00#32, nists := d.nists ||| 0x0020#16 } := by
  have hprsnt : putBit (putBit d.prsnt prsntRTA true) prsntBRE true = d.prsnt ||| 0x00000A00#32 := BitVec.or_assoc _ _ _
  have hnists : putBit d.nists nistsBRR true = d.nists ||| 0x0020#16 := rfl
  rw [Sdhc.startRead_eq, hprsnt, hnists]

theorem Sdhc.startWrite_masks (d : Sdhc) : d.startWrite = { d with
    cursor := 0, xfer := .write, prsnt := d.prsnt ||| 0x00000500#32, nists := d.nists ||| 0x0010#16 } := by
  have hprsnt : putBit (putBit d.prsnt prsntWTA true) prsntBWE true = d.prsnt ||| 0x00000500#32 := BitVec.or_assoc _ _ _
  have hnists : putBit d.nists nistsBWR true = d.nists ||| 0x0010#16 := rfl
  rw [Sdhc.startWrite_eq, hprsnt, hnists]

theorem toNat_arg (v : Word) : (v.setWidth 64 : DWord).toNat = v.toNat := BitVec.toNat_setWidth_of_le (by decide)

section Issue

variable {s : State} {idx : Nat}

theorem State.issue_other (h17 : idx ≠ 17) (h18 : idx ≠ 18) (h24 : idx ≠ 24) (h25 : idx ≠ 25) :
    s.issue idx = .ok (s.setSdhc s.sdhc.commandComplete).logMalformed := by
  have hother : ¬(isReadCommand idx || isWriteCommand idx) = true := by
    simp only [isReadCommand, isWriteCommand, Bool.or_eq_true, decide_eq_true_eq]
    omega
  exact if_neg hother

theorem isDataCommand (h : idx = 17 ∨ idx = 18 ∨ idx = 24 ∨ idx = 25) : (isReadCommand idx || isWriteCommand idx) = true := by
  simp only [isReadCommand, isWriteCommand, Bool.or_eq_true, decide_eq_true_eq]
  omega

theorem State.issue_busy (hdata : idx = 17 ∨ idx = 18 ∨ idx = 24 ∨ idx = 25) (hx : s.sdhc.xfer ≠ .none) :
    s.issue idx = .error .commandDuringTransfer := by
  unfold State.issue
  rw [if_pos (isDataCommand hdata), if_pos hx]

variable (hx : s.sdhc.xfer = .none)
include hx

theorem State.issue_badBlockSize (hdata : idx = 17 ∨ idx = 18 ∨ idx = 24 ∨ idx = 25)
    (hsize : s.sdhc.blksize.toNat % 4096 ≠ 512) : s.issue idx = .error .unsupportedBlockSize := by
  unfold State.issue
  rw [if_pos (isDataCommand hdata), if_neg (by simp [hx]), if_pos (by rwa [Sdhc.blockSize_eq])]

variable (hsize : s.sdhc.blksize.toNat % 4096 = 512)
include hsize

theorem State.issue_pastCapacity (hdata : idx = 17 ∨ idx = 18 ∨ idx = 24 ∨ idx = 25)
    (hcap : s.sdhc.capacity.toNat < s.sdhc.arg.toNat + 512) :
    s.issue idx = .ok (s.setSdhc ({ s.sdhc with pos := s.sdhc.arg.setWidth 64 } : Sdhc).commandComplete).logCapacity := by
  unfold State.issue
  rw [if_pos (isDataCommand hdata), if_neg (by simp [hx]), if_neg (by rw [Sdhc.blockSize_eq, hsize]; decide)]
  exact if_pos (by rwa [toNat_arg])

variable (hcap : s.sdhc.arg.toNat + 512 ≤ s.sdhc.capacity.toNat)
include hcap

theorem State.issue_read (hread : idx = 17 ∨ idx = 18) :
    s.issue idx = .ok (s.setSdhc ({ s.sdhc with pos := s.sdhc.arg.setWidth 64 } : Sdhc).startRead.commandComplete) := by
  unfold State.issue
  rw [if_pos (isDataCommand (by omega)), if_neg (by simp [hx]), if_neg (by rw [Sdhc.blockSize_eq, hsize]; decide)]
  refine (if_neg ?_).trans (if_pos (decide_eq_true hread))
  rw [toNat_arg]
  exact Nat.not_lt.2 hcap

theorem State.issue_write (hwrite : idx = 24 ∨ idx = 25) :
    s.issue idx = .ok (s.setSdhc ({ s.sdhc with pos := s.sdhc.arg.setWidth 64 } : Sdhc).startWrite.commandComplete) := by
  unfold State.issue
  rw [if_pos (isDataCommand (by omega)), if_neg (by simp [hx]), if_neg (by rw [Sdhc.blockSize_eq, hsize]; decide)]
  refine (if_neg ?_).trans (if_neg (mt of_decide_eq_true (by omega)))
  rw [toNat_arg]
  exact Nat.not_lt.2 hcap

end Issue

/-- A store that covers the command byte issues the command on its written bytes (43_sdhc.md R264). -/
theorem sdhcStore_of_command {off n : Nat} {v : DWord} {s : State} (hn : n = 1 ∨ n = 2 ∨ n = 4 ∨ n = 8)
    (hcovers : covers off n 0x0F = true) (hopen : SdhcOpen s off n) :
    sdhcStore off n v s =
      match (s.setSdhc (s.sdhc.putValueAt off n v)).issue (s.sdhc.putValueAt off n v).cmdIndex with
      | .error r => .refused r
      | .ok u => okStore u.recomputeLine := by
  have hat := of_decide_eq_true hcovers
  have hreset : covers off n 0x2F = false := decide_eq_false (by omega)
  have hbeside : off + n ≤ 0x20 ∨ 0x24 ≤ off := .inl (by omega)
  unfold sdhcStore
  rw [sdhcGate_open hopen hbeside, if_neg (by simp [touchesBufdata_eq_false hbeside]), State.storeBytes_of_no_reset hreset,
    State.storeCommand, if_pos hcovers]
  rfl

theorem Unchanged.setSdhc_logMalformed (s : State) (d : Sdhc) : Unchanged [.sdhc, .counters] s (s.setSdhc d).logMalformed := by
  refine ⟨rfl, rfl, fun b hb => ?_⟩
  cases b with
  | sdhc | counters => simp at hb
  | bus | plic | clint | uart | draws => rfl

theorem Unchanged.setSdhc_logCapacity (s : State) (d : Sdhc) : Unchanged [.sdhc, .counters] s (s.setSdhc d).logCapacity := by
  refine ⟨rfl, rfl, fun b hb => ?_⟩
  cases b with
  | sdhc | counters => simp at hb
  | bus | plic | clint | uart | draws => rfl

/-- Settles O52: each command by `issue`, then `command_complete()` and the line. -/
theorem commandStoresIssueTheCommand : Obligations.CommandStoresIssueTheCommand := by
  intro s i off n v e idx cc hstores hn hcovers hopen he hidx hcc
  have hline : e.line = s.sdhc.line := he ▸ (s.sdhc.putValueAt_sameTransfer off n v).line
  have hstore : exec i s = _ := (hstores.exec_eq hn).trans (sdhcStore_of_command hn hcovers hopen)
  rw [← he, Sdhc.cmdIndex_eq, ← hidx] at hstore
  rw [hstore]
  refine ⟨fun h17 h18 h24 h25 => ?_, fun hdata => ⟨fun hx => ?_, fun hx hsize => ?_, fun hx hsize hcap => ?_,
    fun hx hsize hcap => ⟨fun hread => ?_, fun hwrite => ?_⟩⟩⟩
  · rw [State.issue_other h17 h18 h24 h25]
    refine ⟨_, rfl, .of_recomputeLine .ok (.setSdhc_logMalformed s _) rfl ?_, ?_, ?_⟩
    · exact (Sdhc.commandComplete_line _).trans hline
    · simp [Sdhc.commandComplete_eq, hcc]
    · simp
  · rw [State.issue_busy hdata (by exact hx)]
  · rw [State.issue_badBlockSize (by exact hx) hdata (by exact hsize)]
  · rw [State.issue_pastCapacity (by exact hx) (by exact hsize) hdata (by exact hcap)]
    refine ⟨_, rfl, .of_recomputeLine .ok (.setSdhc_logCapacity s _) rfl ?_, ?_, ?_⟩
    · exact (Sdhc.commandComplete_line _).trans hline
    · simp [Sdhc.commandComplete_eq, hcc]
    · simp
  · rw [State.issue_read (by exact hx) (by exact hsize) (by exact hcap) hread]
    refine ⟨_, rfl, .of_recomputeLine .ok (.setSdhc s _) rfl ?_, ?_, ?_⟩
    · exact (Sdhc.commandComplete_line _).trans ((Sdhc.startRead_line _).trans hline)
    · simp [Sdhc.commandComplete_eq, Sdhc.startRead_masks, hcc]
    · intro j
      rw [State.respond_sdhc, State.recomputeLine_sdhc, State.setSdhc_sdhc, Sdhc.commandComplete_eq, Sdhc.startRead_masks]
      refine (readByte_copyBytes _ _ _ _ _ _).trans ?_
      rw [toNat_arg]
      simp [Config.blockSize]
  · rw [State.issue_write (by exact hx) (by exact hsize) (by exact hcap) hwrite]
    refine ⟨_, rfl, .of_recomputeLine .ok (.setSdhc s _) rfl ?_, ?_⟩
    · exact (Sdhc.commandComplete_line _).trans ((Sdhc.startWrite_line _).trans hline)
    · simp [Sdhc.commandComplete_eq, Sdhc.startWrite_masks, hcc]

/-! ### O53: software resets (43_sdhc.md R282) -/

theorem Sdhc.resetCommand_masks (d : Sdhc) : d.resetCommand =
    { d with prsnt := d.prsnt &&& ~~~0x00000001#32, nists := d.nists &&& ~~~0x0001#16 } := rfl

theorem Sdhc.resetData_masks (d : Sdhc) : d.resetData = { d with
    cursor := 0, xfer := .none, prsnt := d.prsnt &&& ~~~0x00000F02#32, nists := d.nists &&& ~~~0x003E#16 } := by
  rw [Sdhc.resetData_eq]
  simp only [putBit_false, BitVec.and_assoc]
  rfl

theorem Sdhc.softReset_of_all {d : Sdhc} {cfg : Config} (h : d.swrst.getLsbD 0 = true) :
    d.softReset cfg = d.resetAll cfg := by
  unfold Sdhc.softReset
  dsimp only
  rw [if_pos h]
  rfl

theorem Sdhc.softReset_of_parts {d : Sdhc} {cfg : Config} (h : d.swrst.getLsbD 0 = false) :
    d.softReset cfg = { d with
      swrst := 0#8
      prsnt := d.prsnt &&& ~~~(if d.swrst.getLsbD 1 then 0x00000001#32 else 0#32) &&&
        ~~~(if d.swrst.getLsbD 2 then 0x00000F02#32 else 0#32)
      nists := d.nists &&& ~~~(if d.swrst.getLsbD 1 then 0x0001#16 else 0#16) &&&
        ~~~(if d.swrst.getLsbD 2 then 0x003E#16 else 0#16)
      cursor := if d.swrst.getLsbD 2 then 0 else d.cursor
      xfer := if d.swrst.getLsbD 2 then .none else d.xfer } := by
  unfold Sdhc.softReset
  dsimp only
  rw [if_neg (by rw [h]; exact Bool.false_ne_true)]
  cases d.swrst.getLsbD 1 <;> cases d.swrst.getLsbD 2 <;>
  simp only [Bool.false_eq_true, if_true, if_false, and_not_zero, Sdhc.resetCommand_masks, Sdhc.resetData_masks]

/-- The reset byte after a store that covers it. -/
theorem Sdhc.putValueAt_swrst_of_covers (d : Sdhc) {off n : Nat} (v : DWord) (h : covers off n 0x2F = true) :
    (d.putValueAt off n v).swrst = getByte v (0x2F - off) := by
  have hwritten := d.stored_putValueAt off n v (r := .swrst) (k := 0) (by decide) nofun
  exact BitVec.extractLsb'_eq_self.symm.trans (hwritten.trans (if_pos (of_decide_eq_true h)))

/-- No status is left after a reset of everything. -/
theorem Sdhc.resetAll_level (cfg : Config) (d : Sdhc) : (d.resetAll cfg).level = false := by
  simp [Sdhc.level, Sdhc.resetAll, Sdhc.construct]

/-- Settles O53: the bytes, the reset that the byte at 0x2F asks for, and the line. -/
theorem softwareResetStores : Obligations.SoftwareResetStores := by
  intro s i off n v e b hstores hn hcovers hopen he hb
  have hat := of_decide_eq_true hcovers
  have hstore : exec i s = okStore (s.setSdhc (e.softReset s.cfg)).recomputeLine := by
    rw [hstores.exec_eq hn, sdhcStore_of_registers hopen (.inr (by omega)) (decide_eq_false (by omega)), State.storeBytes,
      if_pos hcovers, he]
  have hswrst : e.swrst = b := by rw [he, hb, Sdhc.putValueAt_swrst_of_covers _ _ hcovers]
  obtain ⟨hmounted, hcapacity, himage, hpos, hbuf, hcursor, hxfer, hline⟩ := s.sdhc.putValueAt_sameTransfer off n v
  rw [← he] at hmounted hcapacity himage hpos hbuf hcursor hxfer hline
  have haccess : SdhcAccess [] .ok s ((s.setSdhc (e.softReset s.cfg)).recomputeLine.respond .ok) :=
    .of_recomputeLine .ok (.setSdhc s _) rfl ((Sdhc.softReset_line _ _).trans hline)
  rw [hstore]
  refine ⟨fun hall => ⟨_, rfl, haccess, ?_⟩, fun hparts => ⟨_, rfl, haccess, ?_⟩⟩
  · rw [State.respond_sdhc, State.recomputeLine_sdhc, State.setSdhc_sdhc, Sdhc.softReset_of_all (hswrst ▸ hall),
      Sdhc.resetAll_level, Sdhc.resetAll, himage, hbuf, hmounted, hcapacity, hpos]
  · rw [State.respond_sdhc, State.recomputeLine_sdhc, State.setSdhc_sdhc, Sdhc.softReset_of_parts (hswrst ▸ hparts), hswrst]

end Sys2Proof.Machine
end

section
/-! PROOFS. The SDHC's buffer-data port (O54, O55) and reading a block (O57): 43_sdhc.md R276 to R280, R288. -/

namespace Sys2Proof.Machine

/-! ### The end of a block (43_sdhc.md R278, R279) -/

theorem Sdhc.closeBlock_masks (d : Sdhc) : d.closeBlock = { d with
    cursor := 0, blkcnt := if d.xfermode.getLsbD 1 then d.blkcnt - 1#16 else d.blkcnt
    prsnt := d.prsnt &&& ~~~(if d.xfer = .read then 0x00000800#32 else 0x00000400#32)
    nists := d.nists &&& ~~~(if d.xfer = .read then 0x0020#16 else 0x0010#16) } := by
  rw [Sdhc.closeBlock_eq, putBit_false, putBit_false]
  by_cases hx : d.xfer = .read
  · simp only [if_pos hx]; rfl
  · simp only [if_neg hx]; rfl

theorem Sdhc.transferComplete_eq (d : Sdhc) : d.transferComplete =
    { d with nists := d.nists ||| (if d.nisten.getLsbD 1 then 0x0002#16 else 0#16) } := by
  unfold Sdhc.transferComplete nistsTC
  split
  · rfl
  · rw [BitVec.or_zero]

/-- A transfer that ends with its block. -/
theorem Sdhc.closeBlock_idle (d : Sdhc) : d.closeBlock.idle = { d with
    cursor := 0, blkcnt := if d.xfermode.getLsbD 1 then d.blkcnt - 1#16 else d.blkcnt, xfer := .none
    prsnt := d.prsnt &&& ~~~(if d.xfer = .read then 0x00000B00#32 else 0x00000700#32)
    nists := d.nists &&& ~~~(if d.xfer = .read then 0x0020#16 else 0x0010#16) } := by
  rw [Sdhc.idle_eq, putBit_false, putBit_false, Sdhc.closeBlock_masks, BitVec.and_assoc, BitVec.and_assoc]
  by_cases hx : d.xfer = .read
  · simp only [if_pos hx]; rfl
  · simp only [if_neg hx]; rfl

/-- Clearing bits and setting them again. -/
theorem and_not_or {w : Nat} (v m : BitVec w) : v &&& ~~~m ||| m = v ||| m := by
  apply BitVec.eq_of_getLsbD_eq
  intro i hi
  simp only [BitVec.getLsbD_or, BitVec.getLsbD_and, BitVec.getLsbD_not, hi, decide_true, Bool.true_and]
  cases v.getLsbD i <;> cases m.getLsbD i <;> rfl

theorem Sdhc.closeBlock_advance_of_read {d : Sdhc} (h : d.xfer = .read) : d.closeBlock.advance = { d with
    cursor := 0, blkcnt := if d.xfermode.getLsbD 1 then d.blkcnt - 1#16 else d.blkcnt, pos := d.pos + 512#64
    buf := copyBytes d.image (d.pos + 512#64).toNat 0 Config.blockSize d.buf
    prsnt := d.prsnt ||| 0x00000800#32, nists := d.nists ||| 0x0020#16 } := by
  rw [Sdhc.advance_of_read (by simpa), Sdhc.closeBlock_masks, if_pos h, if_pos h, putBit_true, putBit_true]
  rw [← and_not_or d.prsnt 0x00000800#32, ← and_not_or d.nists 0x0020#16]
  rfl

theorem Sdhc.closeBlock_advance_of_not_read {d : Sdhc} (h : d.xfer ≠ .read) : d.closeBlock.advance = { d with
    cursor := 0, blkcnt := if d.xfermode.getLsbD 1 then d.blkcnt - 1#16 else d.blkcnt, pos := d.pos + 512#64
    prsnt := d.prsnt ||| 0x00000400#32, nists := d.nists ||| 0x0010#16 } := by
  rw [Sdhc.advance_of_not_read (by simpa), Sdhc.closeBlock_masks, if_neg h, if_neg h, putBit_true, putBit_true]
  rw [← and_not_or d.prsnt 0x00000400#32, ← and_not_or d.nists 0x0010#16]
  rfl

section BlockEnded

variable {d : Sdhc}

/-- The count after a block, and whether the transfer ends with it. -/
theorem Sdhc.closeBlock_lastBlock : d.closeBlock.lastBlock = true ↔
    d.xfermode.getLsbD 5 = false ∨
    (d.xfermode.getLsbD 1 = true ∧ (if d.xfermode.getLsbD 1 then d.blkcnt - 1#16 else d.blkcnt) = 0#16) := by
  rw [Sdhc.closeBlock_masks]
  simp [Sdhc.lastBlock, xfermodeMSBS, xfermodeBCE]

theorem Sdhc.not_lastBlock (hmore : d.xfermode.getLsbD 5 = true)
    (hcount : d.xfermode.getLsbD 1 = true → (if d.xfermode.getLsbD 1 then d.blkcnt - 1#16 else d.blkcnt) ≠ 0#16) :
    d.closeBlock.lastBlock ≠ true := fun hlast =>
  (Sdhc.closeBlock_lastBlock.1 hlast).elim (fun h => by rw [hmore] at h; cases h) fun ⟨hbce, hzero⟩ => hcount hbce hzero

theorem blockEnded_last (hlast : d.closeBlock.lastBlock = true) : BlockEnded d d.closeBlock.idle.transferComplete 0 := by
  refine ⟨fun _ => ⟨rfl, ?_⟩, fun hmore hcount => absurd hlast (Sdhc.not_lastBlock hmore hcount),
    fun hmore hcount => absurd hlast (Sdhc.not_lastBlock hmore hcount)⟩
  rw [Sdhc.transferComplete_eq, Sdhc.closeBlock_idle]

theorem blockEnded_next (hlast : d.closeBlock.lastBlock ≠ true) (hcap : d.pos.toNat + 512 + 512 ≤ d.capacity.toNat) :
    BlockEnded d d.closeBlock.advance 0 := by
  refine ⟨fun h => absurd (Sdhc.closeBlock_lastBlock.2 h) hlast, fun _ _ _ => ⟨rfl, ?_⟩,
    fun _ _ h => absurd h (Nat.not_lt.2 hcap)⟩
  by_cases hx : d.xfer = .read
  · have hbuf (j : Nat) : readByte d.closeBlock.advance.buf j =
        if 0 ≤ j ∧ j < 0 + 512 then readByte d.image (d.pos.toNat + 512 + (j - 0)) else readByte d.buf j := by
      rw [Sdhc.closeBlock_advance_of_read hx, ← toNat_pos_add_block hcap]
      exact readByte_copyBytes _ _ _ _ _ _
    refine ⟨?_, fun _ j hj => ?_, fun j hj => ?_, fun h => absurd hx h⟩
    · rw [Sdhc.closeBlock_advance_of_read hx, if_pos hx, if_pos hx]
    · exact (hbuf j).trans (if_pos (by omega))
    · exact (hbuf j).trans (if_neg (by omega))
  · have hbuf : d.closeBlock.advance.buf = d.buf := by rw [Sdhc.closeBlock_advance_of_not_read hx]
    refine ⟨?_, fun h => absurd h hx, fun j _ => by rw [hbuf], fun _ => hbuf⟩
    rw [Sdhc.closeBlock_advance_of_not_read hx, if_neg hx, if_neg hx]

theorem blockEnded_past (hlast : d.closeBlock.lastBlock ≠ true) (hcap : d.capacity.toNat < d.pos.toNat + 512 + 512) :
    BlockEnded d d.closeBlock.idle 1 := by
  refine ⟨fun h => absurd (Sdhc.closeBlock_lastBlock.2 h) hlast, fun _ _ h => absurd hcap (Nat.not_lt.2 h),
    fun _ _ _ => ⟨rfl, ?_⟩⟩
  rw [Sdhc.closeBlock_idle]

/-- The line is not part of a block's end. -/
theorem BlockEnded.setLine {e : Sdhc} {logged : Nat} (h : BlockEnded d e logged) (line : Bool) :
    BlockEnded d { e with line := line } logged := by
  obtain ⟨hlast, hnext, hpast⟩ := h
  refine ⟨fun hl => ?_, fun hmore hcount hcap => ?_, fun hmore hcount hcap => ?_⟩
  · obtain ⟨hlogged, he⟩ := hlast hl
    exact ⟨hlogged, by rw [he]⟩
  · obtain ⟨hlogged, he, hbuf⟩ := hnext hmore hcount hcap
    exact ⟨hlogged, by rw [he], hbuf⟩
  · obtain ⟨hlogged, he⟩ := hpast hmore hcount hcap
    exact ⟨hlogged, by rw [he]⟩

end BlockEnded

/-- `end_of_block()` by its three ends. -/
theorem State.endOfBlock_ended (s : State) : ∃ logged, BlockEnded s.sdhc s.endOfBlock.sdhc logged ∧
    s.endOfBlock.counters = { s.counters with capacityExceeded := s.counters.capacityExceeded + logged } := by
  unfold State.endOfBlock
  dsimp only
  rw [Sdhc.closeBlock_pos, Sdhc.closeBlock_capacity]
  split
  · exact ⟨0, blockEnded_last ‹_›, rfl⟩
  · split
    · exact ⟨0, blockEnded_next ‹_› ‹_›, rfl⟩
    · exact ⟨1, blockEnded_past ‹_› (Nat.not_le.1 ‹_›), rfl⟩

/-- The buffer stays at the end of a block that was not read. -/
theorem State.endOfBlock_buf {s : State} (hx : s.sdhc.xfer ≠ .read) : s.endOfBlock.sdhc.buf = s.sdhc.buf := by
  unfold State.endOfBlock
  dsimp only
  split
  · rw [State.setSdhc_sdhc, Sdhc.transferComplete_eq, Sdhc.closeBlock_idle]
  · split
    · rw [State.setSdhc_sdhc, Sdhc.closeBlock_advance_of_not_read hx]
    · rw [State.logCapacity_sdhc, State.setSdhc_sdhc, Sdhc.closeBlock_idle]

theorem Unchanged.mono {touched more : List Block} {s t : State} (h : Unchanged touched s t) (hsub : touched ⊆ more) :
    Unchanged more s t := by
  obtain ⟨hcfg, hrequests, hsame⟩ := h
  exact ⟨hcfg, hrequests, fun b hb => hsame b fun hmem => hb (hsub hmem)⟩

theorem Block.same_trans {s t u : State} {b : Block} (h : b.same s t) (h' : b.same t u) : b.same s u := by
  cases b <;> exact Eq.trans h' h

theorem Unchanged.trans {touched : List Block} {s t u : State} (h : Unchanged touched s t) (h' : Unchanged touched t u) :
    Unchanged touched s u := by
  obtain ⟨hcfg, hrequests, hsame⟩ := h
  obtain ⟨hcfg', hrequests', hsame'⟩ := h'
  exact ⟨hcfg'.trans hcfg, hrequests'.trans hrequests, fun b hb => Block.same_trans (hsame b hb) (hsame' b hb)⟩

theorem State.endOfBlock_unchanged (s : State) : Unchanged [.sdhc, .counters] s s.endOfBlock := by
  unfold State.endOfBlock
  dsimp only
  split
  · exact Unchanged.mono (.setSdhc s _) (by simp)
  · split
    · exact Unchanged.mono (.setSdhc s _) (by simp)
    · exact .setSdhc_logCapacity s _

/-! ### The buffer-data port (43_sdhc.md R276, R277) -/

theorem sdhcGate_port {s : State} (hmounted : s.sdhc.mounted = true) (hsize : 0x24 ≤ s.cfg.sdhcSize) (r : Result) :
    sdhcGate 0x20 4 s r = r := by
  have hhole : coversHole 0x20 4 = false := by decide
  unfold sdhcGate
  rw [inRange_of_le hsize, if_neg (by simp [hmounted]), if_neg (by simp), if_neg (by simp [hhole])]

theorem exec_bufdataLd {s : State} (hmounted : s.sdhc.mounted = true) (hsize : 0x24 ≤ s.cfg.sdhcSize) :
    exec .sdhcBufdataLd s = bufdataLoad s := sdhcGate_port hmounted hsize _

theorem lowHalf_setWidth_word (v : Word) : lowHalf (v.setWidth 64) = v := by
  rw [lowHalf_eq_setWidth, BitVec.setWidth_setWidth_of_le _ (by decide), BitVec.setWidth_eq]

theorem exec_bufdataSt {s : State} (v : Word) (hmounted : s.sdhc.mounted = true) (hsize : 0x24 ≤ s.cfg.sdhcSize) :
    exec (.sdhcBufdataSt v) s = bufdataStore v s := by
  refine (sdhcGate_port hmounted hsize _).trans ?_
  rw [if_pos (by decide), lowHalf_setWidth_word]

theorem Answered.logNotReady (r : Response) (s : State) : Answered [.counters] r s (s.logNotReady.respond r) := by
  refine ⟨rfl, rfl, rfl, rfl, fun b hb => ?_⟩
  cases b with
  | counters => exact absurd (List.mem_singleton.2 rfl) hb
  | bus | plic | clint | sdhc | uart | draws => rfl

theorem getByte_append_zero {m : Nat} (x : BitVec m) (b : Byte) : getByte (x ++ b) 0 = b :=
  (getByte_append_low x b (by decide)).trans (BitVec.extractLsb'_eq_self (x := b))

theorem getByte_append_succ {m : Nat} (x : BitVec m) (b : Byte) (j : Nat) : getByte (x ++ b) (j + 1) = getByte x j := by
  exact (congrArg _ (Nat.add_comm j 1)).trans (getByte_append_high (n := 1) x b j)

/-- The word that a `BUFDATA` load returns, byte by byte. -/
theorem Sdhc.getByte_bufferWord (d : Sdhc) {j : Nat} (hj : j < 4) :
    getByte (d.bufferWord.setWidth 64) j = readByte d.buf (d.cursor + j) := by
  rw [getByte_setWidth _ j (m := 64) (by omega), Sdhc.bufferWord]
  match j with
  | 0 => exact getByte_append_zero _ _
  | 1 => exact (getByte_append_succ _ _ 0).trans (getByte_append_zero _ _)
  | 2 => exact ((getByte_append_succ _ _ 1).trans (getByte_append_succ _ _ 0)).trans (getByte_append_zero _ _)
  | 3 =>
    rw [getByte_append_succ, getByte_append_succ, getByte_append_succ]
    exact BitVec.extractLsb'_eq_self

theorem readByte_putBytes (at' : Nat) (bytes : Nat → Byte) (n : Nat) (m : List Host.Cell) (a : Nat) :
    readByte (loopTo (fun j m => writeByte (at' + j) (bytes j) m) n m) a =
      if at' ≤ a ∧ a < at' + n then bytes (a - at') else readByte m a := by
  induction n with
  | zero => exact (if_neg (by omega)).symm
  | succ n ih =>
    rw [loopTo_succ, readByte_writeByte, ih]
    by_cases ha : a = at' + n
    · rw [if_pos ha, if_pos (by omega), ha, Nat.add_sub_cancel_left]
    · rw [if_neg ha]
      exact if_congr (by omega) rfl rfl

theorem Sdhc.readByte_putBufferWord (v : Word) (d : Sdhc) (j : Nat) : readByte (d.putBufferWord v).buf j =
    if d.cursor ≤ j ∧ j < d.cursor + 4 then getByte v (j - d.cursor) else readByte d.buf j :=
  readByte_putBytes d.cursor (getByte v) 4 d.buf j

section Answer

variable {s : State} {d : Sdhc} (r : Response) (hline : d.line = s.sdhc.line)
include hline

/-- A port access inside a block. -/
theorem SdhcAccess.of_word : SdhcAccess [.counters] r s ((s.setSdhc d).recomputeLine.respond r) :=
  .of_recomputeLine r ((Unchanged.setSdhc s d).mono (by simp)) rfl hline

/-- A port access that ends its block, `d` being the SDHC with the last word moved. -/
theorem SdhcAccess.of_endOfBlock : SdhcAccess [.counters] r s ((s.setSdhc d).endOfBlock.recomputeLine.respond r) :=
  .of_recomputeLine r (((Unchanged.setSdhc s d).mono (by simp)).trans (s.setSdhc d).endOfBlock_unchanged)
    (State.endOfBlock_plic _) ((State.endOfBlock_line _).trans hline)

omit hline in
theorem blockEnded_of_endOfBlock : ∃ logged, BlockEnded d ((s.setSdhc d).endOfBlock.recomputeLine.respond r).sdhc logged ∧
    ((s.setSdhc d).endOfBlock.recomputeLine.respond r).counters =
      { s.counters with capacityExceeded := s.counters.capacityExceeded + logged } := by
  obtain ⟨logged, hended, hcounters⟩ := (s.setSdhc d).endOfBlock_ended
  refine ⟨logged, ?_, ?_⟩
  · rw [State.respond_sdhc, State.recomputeLine_sdhc]
    exact hended.setLine _
  · simpa using hcounters

end Answer

/-! ### O54: `BUFDATA` loads -/

section Load

variable {s : State}

theorem bufdataLoad_of_not_ready (h : s.sdhc.xfer ≠ .read ∨ s.sdhc.prsnt.getLsbD 11 = false) :
    bufdataLoad s = okLoad 4 0#64 s.logNotReady := if_pos h

variable (hx : s.sdhc.xfer = .read) (hready : s.sdhc.prsnt.getLsbD 11 = true)
include hx hready

theorem bufdataLoad_of_ready : bufdataLoad s =
    if s.sdhc.blksize.toNat % 4096 ≠ 512 then .refused .unsupportedBlockSize
    else if s.sdhc.cursor + 4 = 512 then
      okLoad 4 (s.sdhc.bufferWord.setWidth 64) (s.setSdhc { s.sdhc with cursor := 512 }).endOfBlock.recomputeLine
    else
      okLoad 4 (s.sdhc.bufferWord.setWidth 64) (s.setSdhc { s.sdhc with cursor := s.sdhc.cursor + 4 }).recomputeLine := by
  have hnot : ¬(s.sdhc.xfer ≠ .read ∨ s.sdhc.prsnt.getLsbD prsntBRE = false) := by
    rintro (h | h)
    · exact h hx
    · exact absurd (hready.symm.trans h) (by decide)
  unfold bufdataLoad
  rw [if_neg hnot, Sdhc.blockSize_eq]
  refine if_congr Iff.rfl rfl ?_
  by_cases hend : s.sdhc.cursor + 4 = 512
  · rw [if_pos hend, ← hend]
    exact congrArg (fun t : State => okLoad 4 _ t.recomputeLine) (if_pos hend)
  · rw [if_neg hend]
    exact congrArg (fun t : State => okLoad 4 _ t.recomputeLine) (if_neg hend)

end Load

/-- Settles O54: a disabled port, a wrong block size, a word inside the block, and the block's last word. -/
theorem bufferLoads : Obligations.BufferLoads := by
  intro s hmounted hsize
  rw [exec_bufdataLd hmounted hsize]
  refine ⟨fun hnot => ?_, fun hx hready => ?_⟩
  · rw [bufdataLoad_of_not_ready hnot]
    exact ⟨_, rfl, .logNotReady _ s, rfl⟩
  · have hword : ((s.sdhc.bufferWord.setWidth 64 : DWord)).toNat < 2 ^ 32 := by
      rw [BitVec.toNat_setWidth_of_le (by decide)]
      exact s.sdhc.bufferWord.isLt
    rw [bufdataLoad_of_ready hx hready]
    refine ⟨fun hblock => if_pos hblock, fun hblock => ?_⟩
    rw [if_neg (not_not.2 hblock)]
    split
    next hend =>
      refine ⟨_, _, rfl, .of_endOfBlock _ rfl, hword, fun j hj => s.sdhc.getByte_bufferWord hj, fun h => absurd hend h,
        fun _ => blockEnded_of_endOfBlock _⟩
    next hend =>
      refine ⟨_, _, rfl, .of_word _ rfl, hword, fun j hj => s.sdhc.getByte_bufferWord hj, fun _ => ⟨?_, ?_⟩,
        fun h => absurd h hend⟩
      · rw [State.respond_sdhc, State.recomputeLine_sdhc, State.setSdhc_sdhc]
      · simp

/-! ### O55: `BUFDATA` stores -/

/-- The SDHC after the last word of a block was stored and the block written back. -/
def Sdhc.blockStored (v : Word) (d : Sdhc) : Sdhc := { (d.putBufferWord v).writeBack with cursor := 512 }

theorem Sdhc.readByte_blockStored (v : Word) (d : Sdhc) (a : Nat) : readByte (d.blockStored v).image a =
    if d.pos.toNat ≤ a ∧ a < d.pos.toNat + 512 then readByte (d.putBufferWord v).buf (a - d.pos.toNat)
    else readByte d.image a := by
  rw [← Nat.zero_add (a - d.pos.toNat)]
  exact readByte_copyBytes _ 0 _ _ _ a

section Store

variable {s : State} (v : Word)

theorem bufdataStore_of_not_ready (h : s.sdhc.xfer ≠ .write ∨ s.sdhc.prsnt.getLsbD 10 = false) :
    bufdataStore v s = okStore s.logNotReady := if_pos h

variable (hx : s.sdhc.xfer = .write) (hready : s.sdhc.prsnt.getLsbD 10 = true)
include hx hready

theorem bufdataStore_of_ready : bufdataStore v s =
    if s.sdhc.blksize.toNat % 4096 ≠ 512 then .refused .unsupportedBlockSize
    else if s.sdhc.cursor + 4 = 512 then
      okStore (s.setSdhc (s.sdhc.blockStored v)).endOfBlock.recomputeLine
    else okStore (s.setSdhc { s.sdhc.putBufferWord v with cursor := s.sdhc.cursor + 4 }).recomputeLine := by
  have hnot : ¬(s.sdhc.xfer ≠ .write ∨ s.sdhc.prsnt.getLsbD prsntBWE = false) := by
    rintro (h | h)
    · exact h hx
    · exact absurd (hready.symm.trans h) (by decide)
  unfold bufdataStore
  rw [if_neg hnot, Sdhc.blockSize_eq]
  refine if_congr Iff.rfl rfl ?_
  by_cases hend : s.sdhc.cursor + 4 = 512
  · rw [if_pos hend, Sdhc.blockStored, ← hend]
    exact congrArg (fun t : State => okStore t.recomputeLine) (if_pos hend)
  · rw [if_neg hend]
    exact congrArg (fun t : State => okStore t.recomputeLine) (if_neg hend)

end Store

/-- Settles O55: a disabled port, a wrong block size, a word inside the block, and the block's last word with its write-back. -/
theorem bufferStores : Obligations.BufferStores := by
  intro s v hmounted hsize
  rw [exec_bufdataSt v hmounted hsize]
  refine ⟨fun hnot => ?_, fun hx hready => ?_⟩
  · rw [bufdataStore_of_not_ready v hnot]
    exact ⟨_, rfl, .logNotReady _ s, rfl⟩
  · rw [bufdataStore_of_ready v hx hready]
    refine ⟨fun hblock => if_pos hblock, fun hblock => ?_⟩
    rw [if_neg (not_not.2 hblock)]
    split
    next hend =>
      have hbuf : (s.setSdhc (s.sdhc.blockStored v)).endOfBlock.sdhc.buf = (s.sdhc.putBufferWord v).buf :=
        State.endOfBlock_buf (s := s.setSdhc _) (show s.sdhc.xfer ≠ .read from hx ▸ by decide)
      obtain ⟨logged, hended, hcounters⟩ := blockEnded_of_endOfBlock (s := s) (d := s.sdhc.blockStored v) .ok
      refine ⟨_, rfl, .of_endOfBlock _ rfl, fun j => ?_, fun a => ?_, fun h => absurd hend h,
        fun _ => ⟨logged, ?_, hcounters⟩⟩
      · rw [State.respond_sdhc, State.recomputeLine_sdhc, hbuf]
        exact s.sdhc.readByte_putBufferWord v j
      · rw [State.respond_sdhc, State.recomputeLine_sdhc, hbuf, State.endOfBlock_image]
        exact (s.sdhc.readByte_blockStored v a).trans (if_congr (and_iff_right hend).symm rfl rfl)
      · rw [State.respond_sdhc, State.recomputeLine_sdhc] at hended ⊢
        rw [hbuf, State.endOfBlock_image]
        exact hended
    next hend =>
      refine ⟨_, rfl, .of_word _ rfl, fun j => ?_, fun a => ?_, fun _ => ⟨?_, ?_⟩, fun h => absurd h hend⟩
      · rw [State.respond_sdhc, State.recomputeLine_sdhc, State.setSdhc_sdhc]
        exact s.sdhc.readByte_putBufferWord v j
      · rw [if_neg (fun h => hend h.1), State.respond_sdhc, State.recomputeLine_sdhc, State.setSdhc_sdhc]
        rfl
      · rw [State.respond_sdhc, State.recomputeLine_sdhc, State.setSdhc_sdhc]
        rfl
      · simp

/-! ### O57: reading a block -/

theorem run_of_step {M : Host.Core} {s t : M.State} (h : M.step s = .next t) (k : Nat) : M.run (k + 1) s = M.run k t := by
  rw [Host.Core.run, h]

/-- A read transfer inside its block: the buffer holds the block of `image` at `src`, and `j` words of it were loaded. -/
structure State.InBlock (image : List Host.Cell) (src j : Nat) (s : State) : Prop where
  mounted : s.sdhc.mounted = true
  size : 0x24 ≤ s.cfg.sdhcSize
  xfer : s.sdhc.xfer = .read
  ready : s.sdhc.prsnt.getLsbD 11 = true
  block : s.sdhc.blksize.toNat % 4096 = 512
  cursor : s.sdhc.cursor = 4 * j
  bytes : ∀ i, i < 512 → readByte s.sdhc.buf i = readByte image (src + i)

/-- `v` is the `j`-th word of the block. -/
def IsWord (image : List Host.Cell) (src j : Nat) (v : DWord) : Prop :=
  ∀ i, i < 4 → getByte v i = readByte image (src + 4 * j + i)

section InBlock

variable {image : List Host.Cell} {src j : Nat} {s : State} (hs : s.InBlock image src j) (hj : j < 128)
include hs hj

/-- A `BUFDATA` load inside the block answers the next word; before the last word the block goes on. -/
theorem State.InBlock.exec_load : ∃ t v, exec .sdhcBufdataLd s = .next t ∧ t.resp = .loaded 4 v ∧ IsWord image src j v ∧
    t.requests = s.requests ∧ (j + 1 < 128 → t.InBlock image src (j + 1)) := by
  obtain ⟨hmounted, hsize, hx, hready, hblock, hcursor, hbytes⟩ := hs
  obtain ⟨t, v, ht, ⟨⟨hresp, -, hcfg, hrequests, -⟩, -⟩, -, hv, hinside, -⟩ :=
    ((bufferLoads s hmounted hsize).2 hx hready).2 hblock
  refine ⟨t, v, ht, hresp, fun i hi => ?_, hrequests, fun hnext => ?_⟩
  · rw [hv i hi, hcursor, hbytes _ (by omega), Nat.add_assoc]
  · obtain ⟨hsdhc, -⟩ := hinside (by omega)
    rw [hcursor] at hsdhc
    refine ⟨?_, hcfg ▸ hsize, ?_, ?_, ?_, ?_, ?_⟩ <;> rw [hsdhc]
    · exact hmounted
    · exact hx
    · exact hready
    · exact hblock
    · exact (Nat.mul_succ 4 j).symm
    · exact hbytes

/-- The same for the oldest of the records. -/
theorem State.InBlock.step_load {rest : List (List Byte)} (hrequests : s.requests = encode .sdhcBufdataLd :: rest) :
    ∃ t v, step s = .next t ∧ t.resp = .loaded 4 v ∧ IsWord image src j v ∧ t.requests = rest ∧
      (j + 1 < 128 → t.InBlock image src (j + 1)) := by
  rw [step_of_decode_ok (decode_encode_of_wf (by decide)) hrequests]
  have hrest : State.InBlock image src j { s with requests := rest } := by
    obtain ⟨hmounted, hsize, hx, hready, hblock, hcursor, hbytes⟩ := hs
    exact ⟨hmounted, hsize, hx, hready, hblock, hcursor, hbytes⟩
  exact hrest.exec_load hj

end InBlock

/-- The load after `k` others. -/
theorem State.InBlock.run_loads {image : List Host.Cell} {src : Nat} (k : Nat) : ∀ {j : Nat} {s : State},
    s.InBlock image src j → j + k < 128 → s.requests = List.replicate (k + 1) (encode .sdhcBufdataLd) →
    ∃ t v, Host.Core.run Sys2Proof.core (k + 1) s = .next t ∧ t.resp = .loaded 4 v ∧ IsWord image src (j + k) v := by
  induction k with
  | zero =>
    intro j s hs hj hrequests
    obtain ⟨t, v, hstep, hresp, hv, -⟩ := hs.step_load hj hrequests
    exact ⟨t, v, run_of_step (M := Sys2Proof.core) hstep 0, hresp, hv⟩
  | succ k ih =>
    intro j s hs hj hrequests
    obtain ⟨t, v, hstep, -, -, hrest, hnext⟩ := hs.step_load (by omega) hrequests
    rw [run_of_step (M := Sys2Proof.core) hstep, show j + (k + 1) = j + 1 + k by omega]
    exact ih (hnext (by omega)) (by omega) hrest

theorem putByte_half (x : Half) (v : DWord) : putByte (putByte x 0 (getByte v 0)) 1 (getByte v 1) = v.setWidth 16 := by
  refine getByte_two_eq ?_ ?_ <;> rw [getByte_putByte _ _ _ _ (by decide), getByte_setWidth _ _ (by decide)]
  · rw [if_neg (by decide), getByte_putByte _ _ _ _ (by decide), if_pos rfl]
  · rw [if_pos rfl]

/-- A read command from an idle SDHC. -/
theorem exec_readCommand {s : State} (hmounted : s.sdhc.mounted = true) (hsize : 0x24 ≤ s.cfg.sdhcSize)
    (hx : s.sdhc.xfer = .none) (hblock : s.sdhc.blksize.toNat % 4096 = 512) (hcap : s.sdhc.arg.toNat + 512 ≤ s.sdhc.capacity.toNat) :
    ∃ t, exec (.sdhcCmdSt 0 2 0x1100#64) s = .next t ∧ t.requests = s.requests ∧ t.InBlock s.sdhc.image s.sdhc.arg.toNat 0 := by
  have hopen : SdhcOpen s 0x0E 2 := ⟨by omega, hmounted, fun h => absurd h (by decide)⟩
  have hstores : SdhcStores s 0x0E 2 0x1100#64 (.sdhcCmdSt 0 2 0x1100#64) := .inl ⟨.cmd, 0, by decide, by decide, rfl, rfl⟩
  have hidx : 17 = (0x1100#16 : Half).toNat / 256 % 64 := by decide
  have he : s.sdhc.putValueAt 0x0E 2 0x1100#64 = { s.sdhc with cmd := 0x1100#16 } := by
    refine (s.sdhc.putValueAt_half (r := .cmd) (by decide) _).trans ?_
    rw [show (0x1100#16 : Half) = (0x1100#64).setWidth 16 from rfl, ← putByte_half s.sdhc.cmd]
    rfl
  have hissue := commandStoresIssueTheCommand s _ 0x0E 2 _ _ 17 _ hstores (.inr (.inl rfl)) (by decide) hopen he.symm hidx rfl
  obtain ⟨-, -, -, hgood⟩ := hissue.2 (.inl rfl)
  obtain ⟨t, ht, ⟨⟨-, -, hcfg, hrequests, -⟩, -⟩, hsdhc, hbuf⟩ := (hgood hx hblock hcap).1 (.inl rfl)
  refine ⟨t, ht, hrequests, ?_⟩
  constructor
  · rw [hsdhc]; exact hmounted
  · rw [hcfg]; exact hsize
  · rw [hsdhc]
  · rw [hsdhc, BitVec.getLsbD_or]; exact Bool.or_true _
  · rw [hsdhc]; exact hblock
  · rw [hsdhc]
  · exact fun i hi => (hbuf i).trans (if_pos hi)

/-- Settles O57: the command fills the buffer from the image, and each load moves one word of it. -/
theorem blockReadReturnsTheImage : Obligations.BlockReadReturnsTheImage := by
  intro s k hmounted hsize hx hblock hcap hk hrequests
  obtain ⟨t, ht, hrest, hinside⟩ :=
    exec_readCommand (s := { s with requests := List.replicate (k + 1) (encode .sdhcBufdataLd) }) hmounted hsize hx hblock hcap
  have hstep : step s = .next t := (step_of_decode_ok (decode_encode_of_wf (by decide)) hrequests).trans ht
  obtain ⟨u, v, hrun, hresp, hv⟩ := hinside.run_loads k (by omega) hrest
  refine ⟨u, v, (run_of_step (M := Sys2Proof.core) hstep (k + 1)).trans hrun, hresp, fun j hj => ?_⟩
  rw [hv j hj, Nat.zero_add]

end Sys2Proof.Machine
end

section
/-! PROOFS. The UART (44_uart.md): its loads and stores, each followed by `check_int()` (O58, O59), the poll and the host's input
(O60), and what one step can do to its two queues (O18). -/

namespace Sys2Proof.Machine

/-! ### An access and the `check_int()` after it (44_uart.md R340, R350) -/

theorem Unchanged.setUart (s : State) (u : Uart) : Unchanged [.uart] s (s.setUart u) := by
  refine ⟨rfl, rfl, fun b hb => ?_⟩
  cases b with
  | uart => exact absurd (List.mem_singleton.2 rfl) hb
  | bus | plic | clint | sdhc | counters | draws => rfl

theorem State.checkInt_unchanged (s : State) : Unchanged [.uart, .plic] s s.checkInt := by
  refine ⟨s.checkInt_cfg, s.checkInt_requests, fun b hb => ?_⟩
  cases b with
  | uart | plic => exact absurd (by decide) hb
  | bus => exact s.checkInt_bus
  | clint => exact s.checkInt_clint
  | sdhc => exact s.checkInt_sdhc
  | counters => exact s.checkInt_counters
  | draws => exact s.checkInt_draws

/-- An access that left the registers of `u` and then ran `check_int()`. -/
theorem UartAccess.of_checkInt {s : State} {u : Uart} (hline : u.line = s.uart.line) (r : Response) :
    UartAccess u r s ((s.setUart u).checkInt.respond r) := by
  obtain ⟨hcfg, hrequests, hsame⟩ := (Unchanged.mono (.setUart s u) (by decide)).trans (s.setUart u).checkInt_unchanged
  refine ⟨⟨rfl, rfl, hcfg, hrequests, hsame⟩, (s.setUart u).checkInt_uart, ?_⟩
  rw [State.respond_plic, State.respond_uart, State.checkInt_plic, State.checkInt_uart, State.setUart_uart, hline]
  simp only [Plic.signalled, Bool.or_eq_true, decide_eq_true_eq]
  rfl

/-- The result is the UART access that answers `r` and leaves the registers of `u`. -/
def UartAnswers (u : Uart) (r : Response) (s : State) (x : Result) : Prop := ∃ t, x = .next t ∧ UartAccess u r s t

section Answers

variable {s : State} {u : Uart}

theorem uartStored_answers (hline : u.line = s.uart.line) : UartAnswers u .ok s (uartStored (s.setUart u)) :=
  ⟨_, rfl, .of_checkInt hline _⟩

theorem uartLoaded_answers (hline : u.line = s.uart.line) (b : Byte) :
    UartAnswers u (.loaded 1 (b.setWidth 64)) s (uartLoaded b (s.setUart u)) := ⟨_, rfl, .of_checkInt hline _⟩

theorem uartStored_same_answers (s : State) : UartAnswers s.uart .ok s (uartStored s) := uartStored_answers rfl

theorem uartLoaded_same_answers (s : State) (b : Byte) :
    UartAnswers s.uart (.loaded 1 (b.setWidth 64)) s (uartLoaded b s) := uartLoaded_answers rfl b

variable {r : Response} {x y : Result}

/-- A row in the device's range has its own answer (20_memory.md R101). -/
theorem UartAnswers.at {k : Nat} (hin : InUart s k) (h : UartAnswers u r s x) : UartAnswers u r s (uartAt k s x) := by
  unfold uartAt
  rwa [inRange_of_le hin]

/-- A row whose offset two registers share reaches the one `DLAB` selects (30_encoding.md R140). -/
theorem UartAnswers.at_dlab_set {k : Nat} (hin : InUart s k) (hdlab : s.uart.lcr.getLsbD 7 = true) (h : UartAnswers u r s x) :
    UartAnswers u r s (uartAt k s (if s.uart.dlab then x else y)) := .at hin ((if_pos hdlab).symm ▸ h)

theorem UartAnswers.at_dlab_clear {k : Nat} (hin : InUart s k) (hdlab : s.uart.lcr.getLsbD 7 = false) (h : UartAnswers u r s y) :
    UartAnswers u r s (uartAt k s (if s.uart.dlab then x else y)) :=
  .at hin ((if_neg (Bool.eq_false_iff.1 hdlab)).symm ▸ h)

end Answers

/-! ### O58: the stores (44_uart.md R341, R343, R344, R346, R347, R348) -/

/-- Settles O58: each row in range is the store of its register, the one `DLAB` selects where two share an offset. -/
theorem uartStores : Obligations.UartStores := by
  intro s v
  refine ⟨?thr, ?dll, ?ier, ?dlm, ?fcr, ?lcr, ?mcr, ?lsr, ?psd, ?msr, ?scr⟩
  case thr | ier =>
    rintro hin hdlab i (rfl | rfl) <;> exact UartAnswers.at_dlab_clear hin hdlab (uartStored_answers rfl)
  case dll | dlm | psd =>
    rintro hin hdlab i (rfl | rfl) <;> exact UartAnswers.at_dlab_set hin hdlab (uartStored_answers rfl)
  case lsr =>
    rintro hin hdlab i (rfl | rfl) <;> exact UartAnswers.at_dlab_clear hin hdlab (uartStored_same_answers s)
  case fcr | lcr | mcr | scr => exact fun hin => UartAnswers.at hin (uartStored_answers rfl)
  case msr => exact fun hin => UartAnswers.at hin (uartStored_same_answers s)

/-! ### O59: the loads (44_uart.md R341, R342, R344, R345, R347, R348) -/

theorem Uart.rxAvail_iff (u : Uart) : u.rxAvail = true ↔ u.rxq ≠ [] := by simp [Uart.rxAvail]

/-- `LSR` has its two constant bits and bit 0 while a byte waits (44_uart.md R348). -/
theorem Uart.lsr_setWidth (u : Uart) : u.lsr.setWidth 64 = if u.rxq = [] then 0x60#64 else 0x61#64 := by
  unfold Uart.lsr
  simp only [Uart.rxAvail_iff]
  by_cases hq : u.rxq = []
  · simp [hq]
  · simp [hq]

/-- The parts of `IIR` do not overlap, so their sum is their union (44_uart.md R345). -/
theorem Uart.iir_setWidth (cfg : Config) (u : Uart) : (u.iir cfg).setWidth 64 =
    (if u.fcr.getLsbD 0 = true then 0xC0#64 else 0#64) +
      (if u.ier.getLsbD 0 = true ∧ u.rxq ≠ [] then 4#64
       else if cfg.uartThreIrq = true ∧ u.ier.getLsbD 1 = true then 2#64 else 1#64) := by
  unfold Uart.iir
  simp only [Bool.and_eq_true, Uart.rxAvail_iff]
  split_ifs <;> rfl

theorem rbrLoad_nil_answers {s : State} (hq : s.uart.rxq = []) : UartAnswers s.uart (.loaded 1 0#64) s (rbrLoad s) := by
  unfold rbrLoad
  rw [hq]
  exact uartLoaded_same_answers s 0#8

theorem rbrLoad_cons_answers {s : State} {b : Byte} {rest : List Byte} (hq : s.uart.rxq = b :: rest) :
    UartAnswers { s.uart with rxq := rest } (.loaded 1 (b.setWidth 64)) s (rbrLoad s) := by
  unfold rbrLoad
  rw [hq]
  exact uartLoaded_answers (u := { s.uart with rxq := rest }) rfl b

/-- Settles O59: each row in range is the load of its register, the one `DLAB` selects where two share an offset. -/
theorem uartLoads : Obligations.UartLoads := by
  intro s
  refine ⟨?rbr, ?dll, ?ier, ?dlm, ?iir, ?lcr, ?mcr, ?lsr, ?psd, ?msr, ?scr⟩
  case rbr =>
    refine fun hin hdlab i hi => ⟨fun b rest hq => ?_, fun hq => ?_⟩
    · rcases hi with rfl | rfl <;> exact UartAnswers.at_dlab_clear hin hdlab (rbrLoad_cons_answers hq)
    · rcases hi with rfl | rfl <;> exact UartAnswers.at_dlab_clear hin hdlab (rbrLoad_nil_answers hq)
  case ier =>
    rintro hin hdlab i (rfl | rfl) <;> exact UartAnswers.at_dlab_clear hin hdlab (uartLoaded_same_answers s _)
  case dll | dlm | psd =>
    rintro hin hdlab i (rfl | rfl) <;> exact UartAnswers.at_dlab_set hin hdlab (uartLoaded_same_answers s _)
  case lsr =>
    rw [← Uart.lsr_setWidth]
    rintro hin hdlab i (rfl | rfl) <;> exact UartAnswers.at_dlab_clear hin hdlab (uartLoaded_same_answers s _)
  case iir =>
    intro hin
    obtain ⟨t, hx, ht⟩ := UartAnswers.at hin (uartLoaded_same_answers s (s.uart.iir s.cfg))
    exact ⟨t, _, hx, ht, s.uart.iir_setWidth s.cfg⟩
  case lcr | mcr | msr | scr => exact fun hin => UartAnswers.at hin (uartLoaded_same_answers s _)

/-! ### O60: the poll and the host's input (44_uart.md R350, R351) -/

theorem Answered.setUart (r : Response) (u : Uart) (s : State) : Answered [.uart] r s ((s.setUart u).respond r) := by
  obtain ⟨hcfg, hrequests, hsame⟩ := Unchanged.setUart s u
  exact ⟨rfl, rfl, hcfg, hrequests, hsame⟩

/-- Settles O60: the poll is a bare `check_int()`, and the host's input touches the receive queue alone. -/
theorem pollAndHostInput : Obligations.PollAndHostInput := by
  intro s bytes
  refine ⟨?_, _, rfl, .setUart _ _ s, rfl⟩
  obtain ⟨t, hx, haccess⟩ := uartStored_same_answers s
  refine ⟨t, hx, haccess, fun hier hthre => ?_⟩
  obtain ⟨-, huart, -⟩ := haccess
  rw [huart, hier, hthre]
  rfl

/-! ### O18: what one step can do to the queues (44_uart.md R342, R343, R351, R352) -/

/-- One access to the queues of `u` that leaves those of `w`: none, a byte sent, the head of the received bytes taken, or bytes
received. -/
inductive Uart.QueueMove (u w : Uart) : Prop
  | same (htx : w.txlog = u.txlog) (hrx : w.rxq = u.rxq)
  | send (b : Byte) (htx : w.txlog = u.txlog ++ [b]) (hrx : w.rxq = u.rxq)
  | take (htx : w.txlog = u.txlog) (hrx : w.rxq = u.rxq.tail)
  | input (bytes : List Byte) (htx : w.txlog = u.txlog) (hrx : w.rxq = u.rxq ++ bytes)

theorem Uart.QueueMove.of_eq {u w : Uart} (h : w = u) : u.QueueMove w := h ▸ .same rfl rfl

theorem Uart.QueueMove.setLine {u w : Uart} (h : u.QueueMove w) (line : Bool) : u.QueueMove { w with line := line } := by
  cases h with
  | same htx hrx => exact .same htx hrx
  | send b htx hrx => exact .send b htx hrx
  | take htx hrx => exact .take htx hrx
  | input bytes htx hrx => exact .input bytes htx hrx

/-- If the result is a next state, its UART's queues are one move away. -/
def MovesQueues (s : State) (x : Result) : Prop := ∀ t, x = .next t → s.uart.QueueMove t.uart

section MovesQueues

variable {s u : State}

theorem next_movesQueues (h : s.uart.QueueMove u.uart) : MovesQueues s (.next u) := fun _ ht => Host.Outcome.next.inj ht ▸ h

theorem okLoad_movesQueues (n : Nat) (v : DWord) (h : s.uart.QueueMove u.uart) : MovesQueues s (okLoad n v u) :=
  next_movesQueues h

theorem okStore_movesQueues (h : s.uart.QueueMove u.uart) : MovesQueues s (okStore u) := next_movesQueues h

theorem failUnmapped_movesQueues (h : s.uart.QueueMove u.uart) : MovesQueues s (failUnmapped u) := next_movesQueues h

theorem refused_movesQueues (s : State) (r : Refusal) : MovesQueues s (.refused r) := fun _ ht => by cases ht

theorem holeLoad_movesQueues (p : HolePolicy) (n : Nat) (s : State) : MovesQueues s (holeLoad p n s) := by
  cases p
  · exact okLoad_movesQueues n _ (.of_eq rfl)
  · exact failUnmapped_movesQueues (.of_eq rfl)

theorem holeStore_movesQueues (p : HolePolicy) (s : State) : MovesQueues s (holeStore p s) := by
  cases p
  · exact okStore_movesQueues (.of_eq rfl)
  · exact failUnmapped_movesQueues (.of_eq rfl)

theorem uartLoaded_movesQueues (b : Byte) (h : s.uart.QueueMove u.uart) : MovesQueues s (uartLoaded b u) :=
  okLoad_movesQueues 1 _ (u.checkInt_uart ▸ h.setLine _)

theorem uartStored_movesQueues (h : s.uart.QueueMove u.uart) : MovesQueues s (uartStored u) :=
  okStore_movesQueues (u.checkInt_uart ▸ h.setLine _)

theorem MovesQueues.ite {p : Prop} [Decidable p] {x y : Result} (hx : MovesQueues s x) (hy : MovesQueues s y) :
    MovesQueues s (if p then x else y) := by
  split
  · exact hx
  · exact hy

theorem MovesQueues.inRange {size off n : Nat} {x : Result} (h : MovesQueues s x) : MovesQueues s (inRange size off n s x) :=
  .ite h (failUnmapped_movesQueues (.of_eq rfl))

theorem MovesQueues.sdhcGate {off n : Nat} {x : Result} (h : MovesQueues s x) : MovesQueues s (sdhcGate off n s x) :=
  have hfail : MovesQueues s (failUnmapped s) := failUnmapped_movesQueues (.of_eq rfl)
  .inRange (.ite hfail (.ite (refused_movesQueues s _) (.ite hfail h)))

end MovesQueues

/-! #### The rows -/

/-- `RBR` gives the bytes in the order of their arrival (44_uart.md R342). -/
theorem rbrLoad_movesQueues (s : State) : MovesQueues s (rbrLoad s) := by
  unfold rbrLoad
  split
  next => exact uartLoaded_movesQueues _ (.of_eq rfl)
  next b rest hq => exact uartLoaded_movesQueues _ (.take rfl (by rw [hq]; rfl))

theorem sdhcLoad_movesQueues (off n : Nat) (s : State) : MovesQueues s (sdhcLoad off n s) := by
  refine .sdhcGate (.ite ?_ (okLoad_movesQueues n _ (.of_eq rfl)))
  refine .ite (okLoad_movesQueues 4 _ (.of_eq rfl)) (.ite (refused_movesQueues s _) (okLoad_movesQueues 4 _ (.of_eq ?_)))
  split <;> simp

theorem sdhcStore_movesQueues (off n : Nat) (v : DWord) (s : State) : MovesQueues s (sdhcStore off n v s) := by
  refine .sdhcGate (.ite ?_ ?_)
  · refine .ite (okStore_movesQueues (.of_eq rfl)) (.ite (refused_movesQueues s _) (okStore_movesQueues (.of_eq ?_)))
    split <;> simp
  · split
    · exact refused_movesQueues s _
    · rename_i u hu
      exact okStore_movesQueues (.of_eq (by rw [State.recomputeLine_uart, (storeCommand_move hu).2.uart, State.storeBytes_uart]))

theorem execBusAddDevice_movesQueues (on : Nat) (base : DWord) (d : Device) (s : State) :
    MovesQueues s (execBusAddDevice on base d s) := by
  intro t h
  unfold execBusAddDevice at h
  split_ifs at h
  injection h with h
  exact h ▸ .of_eq rfl

/-- A transaction that goes through the Bus to a device: the only ones that are the meaning of other rows. -/
def isBusAccess : Instr → Bool
  | .busLoad _ _ => true
  | .busStore _ _ _ => true
  | _ => false

/-- Every row that is not a Bus access: only `RBR`, `THR` and `host_input` reach a queue. -/
theorem row_movesQueues {i : Instr} (hi : isBusAccess i = false) (s : State) : MovesQueues s (exec i s) := by
  have kept : s.uart.QueueMove s.uart := .of_eq rfl
  cases i with
  | busLoad addr n => cases hi
  | busStore addr n v => cases hi
  | busAddDevice on base d => exact execBusAddDevice_movesQueues on base d s
  | busFindDevice addr => exact next_movesQueues kept
  | plicPriorityLd k =>
    exact .inRange (.ite (okLoad_movesQueues 4 _ kept) (.ite (okLoad_movesQueues 4 _ kept) (holeLoad_movesQueues _ 4 s)))
  | plicPrioritySt k v =>
    exact .inRange (.ite (okStore_movesQueues kept) (.ite (okStore_movesQueues kept) (holeStore_movesQueues _ s)))
  | plicPendingLd w | plicEnableLd c w | plicThresholdLd c | plicClaimLd c =>
    exact .inRange (.ite (holeLoad_movesQueues _ 4 s) (okLoad_movesQueues 4 _ kept))
  | plicPendingSt w v | plicEnableSt c w v | plicThresholdSt c v | plicCompleteSt c v =>
    exact .inRange (.ite (holeStore_movesQueues _ s) (okStore_movesQueues kept))
  | plicRaiseIrq k level => exact .ite (refused_movesQueues s _) (okStore_movesQueues kept)
  | plicUpdate => exact okStore_movesQueues kept
  | plicIntCheck c => exact .ite (refused_movesQueues s _) (next_movesQueues kept)
  | clintMsipLd h | clintMtimecmpLd64 h | clintMtimecmpLdLo h | clintMtimecmpLdHi h =>
    exact .inRange (.ite (okLoad_movesQueues _ _ kept) (holeLoad_movesQueues _ _ s))
  | clintMtimeLd64 | clintMtimeLdLo | clintMtimeLdHi =>
    exact .inRange (okLoad_movesQueues _ _ (.of_eq s.refreshTime_uart))
  | clintMsipSt h v => exact .inRange (.ite (okStore_movesQueues kept) (holeStore_movesQueues _ s))
  | clintMtimecmpSt64 h v | clintMtimecmpStLo h v | clintMtimecmpStHi h v =>
    exact .inRange (.ite (okStore_movesQueues (.of_eq (State.writeCmp_uart _ _ s))) (holeStore_movesQueues _ s))
  | clintMtimeSt64 v | clintMtimeStLo v | clintMtimeStHi v =>
    exact .inRange (okStore_movesQueues (.of_eq (State.writeTime_uart _ s)))
  | clintIncrement d => exact okStore_movesQueues (.of_eq (by split <;> simp))
  | sdhcSysaddrLd j n | sdhcBlksizeLd j n | sdhcBlkcntLd j n | sdhcArgLd j n | sdhcXfermodeLd j n | sdhcCmdLd j n
  | sdhcRespLd j n | sdhcPrsntLd j n | sdhcHostctlLd j n | sdhcPwrctlLd j n | sdhcClkctlLd j n | sdhcToctlLd j n
  | sdhcSwrstLd j n | sdhcNistsLd j n | sdhcEistsLd j n | sdhcNistenLd j n | sdhcEistenLd j n | sdhcNisigenLd j n
  | sdhcEisigenLd j n | sdhcCapsLd j n | sdhcMaxcurLd j n | sdhcVersionLd j n | sdhcBufdataLd =>
    exact sdhcLoad_movesQueues _ _ s
  | sdhcSysaddrSt j n v | sdhcBlksizeSt j n v | sdhcBlkcntSt j n v | sdhcArgSt j n v | sdhcXfermodeSt j n v | sdhcCmdSt j n v
  | sdhcRespSt j n v | sdhcPrsntSt j n v | sdhcHostctlSt j n v | sdhcPwrctlSt j n v | sdhcClkctlSt j n v | sdhcToctlSt j n v
  | sdhcSwrstSt j n v | sdhcNistsSt j n v | sdhcEistsSt j n v | sdhcNistenSt j n v | sdhcEistenSt j n v | sdhcNisigenSt j n v
  | sdhcEisigenSt j n v | sdhcCapsSt j n v | sdhcMaxcurSt j n v | sdhcVersionSt j n v | sdhcBufdataSt v =>
    exact sdhcStore_movesQueues _ _ _ s
  | uartRbrLd | uartDllLd => exact .inRange (.ite (uartLoaded_movesQueues _ kept) (rbrLoad_movesQueues s))
  | uartIerLd | uartDlmLd | uartLsrLd | uartPsdLd =>
    exact .inRange (.ite (uartLoaded_movesQueues _ kept) (uartLoaded_movesQueues _ kept))
  | uartIirLd | uartLcrLd | uartMcrLd | uartMsrLd | uartScrLd => exact .inRange (uartLoaded_movesQueues _ kept)
  | uartThrSt v | uartDllSt v =>
    exact .inRange (.ite (uartStored_movesQueues (.same rfl rfl)) (uartStored_movesQueues (.send v rfl rfl)))
  | uartIerSt v | uartDlmSt v | uartLsrSt v | uartPsdSt v =>
    exact .inRange (.ite (uartStored_movesQueues (.same rfl rfl)) (uartStored_movesQueues (.same rfl rfl)))
  | uartFcrSt v | uartLcrSt v | uartMcrSt v | uartMsrSt v | uartScrSt v =>
    exact .inRange (uartStored_movesQueues (.same rfl rfl))
  | uartPoll => exact uartStored_movesQueues kept
  | uartHostInput bytes => exact okStore_movesQueues (.input bytes rfl rfl)

/-! #### The Bus -/

theorem plicLoadRow_not_busAccess {slot : PlicSlot} {i : Instr} (h : plicLoadRow slot = some i) : isBusAccess i = false := by
  cases slot <;> cases h <;> rfl

theorem plicStoreRow_not_busAccess {slot : PlicSlot} {v : Word} {i : Instr} (h : plicStoreRow v slot = some i) :
    isBusAccess i = false := by
  cases slot <;> cases h <;> rfl

theorem clintLoadRow_not_busAccess {slot : ClintSlot} {i : Instr} (h : clintLoadRow slot = some i) : isBusAccess i = false := by
  cases slot <;> cases h <;> rfl

theorem clintStoreRow_not_busAccess {slot : ClintSlot} {v : DWord} {i : Instr} (h : clintStoreRow v slot = some i) :
    isBusAccess i = false := by
  cases slot <;> cases h <;> rfl

theorem uartLoadRow_not_busAccess {reg : UartReg} {i : Instr} (h : uartLoadRow reg = some i) : isBusAccess i = false := by
  cases reg <;> cases h <;> rfl

theorem uartStoreRow_not_busAccess {reg : UartReg} {v : Byte} {i : Instr} (h : uartStoreRow v reg = some i) :
    isBusAccess i = false := by
  cases reg <;> cases h <;> rfl

theorem plic_movesQueues (off n : Nat) (v : DWord) (s : State) :
    MovesQueues s (plicLoad off n s) ∧ MovesQueues s (plicStore off n v s) := by
  by_cases hshape : n = 4 ∧ off % 4 = 0
  · obtain ⟨rfl, h4⟩ := hshape
    rcases plicSlot_hole_or_at h4 with hhole | ⟨hfits, -⟩
    · obtain ⟨hload, hstore⟩ := plic_at_hole h4 hhole v s
      rw [hload, hstore]
      exact ⟨holeLoad_movesQueues _ 4 s, holeStore_movesQueues _ s⟩
    · obtain ⟨⟨i, hload⟩, j, hstore⟩ := plicRows_of_fits hfits (v.setWidth 32)
      rw [plicLoad_eq_exec_row h4 hload, plicStore_eq_exec_row h4 hstore]
      exact ⟨row_movesQueues (plicLoadRow_not_busAccess hload) s, row_movesQueues (plicStoreRow_not_busAccess hstore) s⟩
  · obtain ⟨hload, hstore⟩ := plic_refuses_shape hshape v s
    rw [hload, hstore]
    exact ⟨refused_movesQueues s _, refused_movesQueues s _⟩

theorem clint_movesQueues (off n : Nat) (v : DWord) (s : State) :
    MovesQueues s (clintLoad off n s) ∧ MovesQueues s (clintStore off n v s) := by
  rcases clintSlot_hole_or_refuse_or_at s.cfg.numHarts off n with hhole | hrefuse | ⟨hfits, -⟩
  · obtain ⟨hload, hstore⟩ := clint_at_hole hhole v
    rw [hload, hstore]
    exact ⟨holeLoad_movesQueues _ n s, holeStore_movesQueues _ s⟩
  · obtain ⟨hload, hstore⟩ := clint_refuses_slot hrefuse v
    rw [hload, hstore]
    exact ⟨refused_movesQueues s _, refused_movesQueues s _⟩
  · obtain ⟨⟨i, hload⟩, j, hstore⟩ := clintRows_of_fits hfits v
    rw [clintLoad_eq_exec_row hload, clintStore_eq_exec_row hstore]
    exact ⟨row_movesQueues (clintLoadRow_not_busAccess hload) s, row_movesQueues (clintStoreRow_not_busAccess hstore) s⟩

theorem uart_movesQueues (off n : Nat) (v : DWord) (s : State) :
    MovesQueues s (uartLoad off n s) ∧ MovesQueues s (uartStore off n v s) := by
  by_cases hn : n = 1
  · subst hn
    cases hindex : uartIndex s.cfg.uartRegShift off with
    | none =>
      obtain ⟨hload, hstore⟩ := uart_at_hole hindex v
      rw [hload, hstore]
      exact ⟨holeLoad_movesQueues _ 1 s, holeStore_movesQueues _ s⟩
    | some k =>
      obtain ⟨hk, -⟩ := uartIndex_eq_some hindex
      obtain ⟨lreg, i, hlreg, hload⟩ := uartLoadReg_row hk s.uart.dlab
      obtain ⟨sreg, j, hsreg, hstore⟩ := uartStoreReg_row hk s.uart.dlab (v.setWidth 8)
      rw [uartLoad_eq_exec_row hindex (Option.bind_eq_some_iff.2 ⟨lreg, hlreg, hload⟩),
        uartStore_eq_exec_row hindex (Option.bind_eq_some_iff.2 ⟨sreg, hsreg, hstore⟩)]
      exact ⟨row_movesQueues (uartLoadRow_not_busAccess hload) s, row_movesQueues (uartStoreRow_not_busAccess hstore) s⟩
  · obtain ⟨hload, hstore⟩ := uart_refuses_width hn off v s
    rw [hload, hstore]
    exact ⟨refused_movesQueues s _, refused_movesQueues s _⟩

theorem other_movesQueues (id off n : Nat) (v : DWord) (s : State) :
    MovesQueues s (otherLoad id off n s) ∧ MovesQueues s (otherStore id off n v s) := by
  refine ⟨?_, ?_⟩
  · unfold otherLoad
    split
    · exact okLoad_movesQueues n _ (.of_eq rfl)
    · exact failUnmapped_movesQueues (.of_eq rfl)
    · exact refused_movesQueues s _
  · unfold otherStore
    split
    · exact okStore_movesQueues (.of_eq rfl)
    · exact failUnmapped_movesQueues (.of_eq rfl)
    · exact refused_movesQueues s _

theorem device_movesQueues (d : Device) (off n : Nat) (v : DWord) (s : State) :
    MovesQueues s (deviceLoad d off n s) ∧ MovesQueues s (deviceStore d off n v s) := by
  cases d with
  | plic => exact plic_movesQueues off n v s
  | clint => exact clint_movesQueues off n v s
  | uart => exact uart_movesQueues off n v s
  | sdhc => exact ⟨sdhcLoad_movesQueues off n s, sdhcStore_movesQueues off n v s⟩
  | bus => exact ⟨failUnmapped_movesQueues (.of_eq rfl), failUnmapped_movesQueues (.of_eq rfl)⟩
  | other id => exact other_movesQueues id off n v s

theorem bus_movesQueues (addr : DWord) (n : Nat) (v : DWord) (s : State) :
    MovesQueues s (exec (.busLoad addr n) s) ∧ MovesQueues s (exec (.busStore addr n v) s) := by
  refine ⟨.ite ?_ (refused_movesQueues s _), .ite ?_ (refused_movesQueues s _)⟩
  · split
    · exact failUnmapped_movesQueues (.of_eq rfl)
    · exact (device_movesQueues _ _ n 0#64 s).1
  · split
    · exact failUnmapped_movesQueues (.of_eq rfl)
    · exact (device_movesQueues _ _ n v s).2

/-- Every transaction: a Bus access is refused, answers alone, or is the meaning of a row. -/
theorem exec_movesQueues (i : Instr) (s : State) : MovesQueues s (exec i s) := by
  by_cases hi : isBusAccess i = false
  · exact row_movesQueues hi s
  · cases i with
    | busLoad addr n => exact (bus_movesQueues addr n 0#64 s).1
    | busStore addr n v => exact (bus_movesQueues addr n v s).2
    | _ => exact absurd rfl hi

theorem step_movesQueues (s : State) : MovesQueues s (step s) := by
  cases hq : s.requests with
  | nil => exact step_of_no_request hq ▸ next_movesQueues (.of_eq rfl)
  | cons record rest =>
    cases hdec : decode record with
    | ok i => exact step_of_decode_ok hdec hq ▸ exec_movesQueues i { s with requests := rest }
    | error e =>
      intro t h
      rw [step_of_decode_error hdec hq] at h
      exact .of_eq (rejectRecord_next h ▸ rfl)

/-- Settles O18: a step makes at most one access to the UART's queues. -/
theorem uartQueuesMoveInOrder : Obligations.UartQueuesMoveInOrder := by
  intro s t h
  cases step_movesQueues s t h with
  | same htx hrx => exact ⟨⟨[], by rw [htx, List.append_nil], Nat.zero_le 1⟩, .inl hrx⟩
  | send b htx hrx => exact ⟨⟨[b], htx, Nat.le_refl 1⟩, .inl hrx⟩
  | take htx hrx => exact ⟨⟨[], by rw [htx, List.append_nil], Nat.zero_le 1⟩, .inr (.inl hrx)⟩
  | input bytes htx hrx => exact ⟨⟨[], by rw [htx, List.append_nil], Nat.zero_le 1⟩, .inr (.inr ⟨bytes, hrx⟩)⟩

end Sys2Proof.Machine
end

section
/-! PROOFS. The failure and the faults (60_exceptions.md): a transaction that fails as unmapped leaves every device as it was (O14),
and only construction and `add_device` stop the machine with an error (O15). -/

namespace Sys2Proof

/-! ### The launch's ranges (40_bus.md R161, 60_exceptions.md R375) -/

theorem Config.valid_iff {c : Config} : c.valid = true ↔ c.paramsValid = true ∧ c.rangesFit = true ∧ c.rangesApart = true := by
  simp [Config.valid, and_assoc]

theorem Config.sizes_ne_zero_of_rangesFit {c : Config} (h : c.rangesFit = true) :
    c.plicSize ≠ 0 ∧ c.clintSize ≠ 0 ∧ c.uartSize ≠ 0 ∧ c.sdhcSize ≠ 0 := by
  simp only [Config.rangesFit, rangeOk, Bool.and_eq_true, decide_eq_true_eq] at h
  obtain ⟨⟨⟨hplic, hclint⟩, huart⟩, hsdhc⟩ := h
  exact ⟨hplic.1, hclint.1, huart.1, hsdhc.1⟩

/-- The launch's ranges, as (base, size) pairs in the order of machine setup. -/
def Config.ranges (c : Config) : List (Nat × Nat) :=
  [(c.plicBase.toNat, c.plicSize), (c.clintBase.toNat, c.clintSize), (c.uartBase.toNat, c.uartSize),
    (c.sdhcBase.toNat, c.sdhcSize)]

theorem Config.rangesApart_iff_pairwise {c : Config} :
    c.rangesApart = true ↔ c.ranges.Pairwise fun p q => rangesDisjoint p.1 p.2 q.1 q.2 = true := by
  simp [Config.rangesApart, Config.ranges, and_assoc]

theorem not_rangesDisjoint_of_shared {b k b' k' a : Nat} (h : b ≤ a ∧ a < b + k) (h' : b' ≤ a ∧ a < b' + k') :
    ¬rangesDisjoint b k b' k' = true := mt of_decide_eq_true (by omega)

end Sys2Proof

namespace Sys2Proof.Machine

/-! ### What a Bus access answers (40_bus.md R163, R164)

A Bus access is the meaning of a row, or has one of a few answers of its own. -/

/-- The transactions that are not the meaning of other rows and cannot stop the machine: all but the Bus accesses and `add_device`. -/
def isPlainRow : Instr → Bool
  | .busLoad _ _ => false
  | .busStore _ _ _ => false
  | .busAddDevice _ _ _ => false
  | _ => true

theorem plicLoadRow_isPlainRow {slot : PlicSlot} {i : Instr} (h : plicLoadRow slot = some i) : isPlainRow i = true := by
  cases slot <;> cases h <;> rfl

theorem plicStoreRow_isPlainRow {slot : PlicSlot} {v : Word} {i : Instr} (h : plicStoreRow v slot = some i) :
    isPlainRow i = true := by
  cases slot <;> cases h <;> rfl

theorem clintLoadRow_isPlainRow {slot : ClintSlot} {i : Instr} (h : clintLoadRow slot = some i) : isPlainRow i = true := by
  cases slot <;> cases h <;> rfl

theorem clintStoreRow_isPlainRow {slot : ClintSlot} {v : DWord} {i : Instr} (h : clintStoreRow v slot = some i) :
    isPlainRow i = true := by
  cases slot <;> cases h <;> rfl

theorem uartLoadRow_isPlainRow {reg : UartReg} {i : Instr} (h : uartLoadRow reg = some i) : isPlainRow i = true := by
  cases reg <;> cases h <;> rfl

theorem uartStoreRow_isPlainRow {reg : UartReg} {v : Byte} {i : Instr} (h : uartStoreRow v reg = some i) :
    isPlainRow i = true := by
  cases reg <;> cases h <;> rfl

/-- What a Bus access can answer from `s`. An SDHC access that begins in a hole is no row (30_encoding.md R145), so the SDHC's accesses
stand beside the rows. -/
inductive BusAnswer (s : State) : Result → Prop
  | refused (r : Refusal) : BusAnswer s (.refused r)
  | failed : BusAnswer s (failUnmapped s)
  | holeLoad (p : HolePolicy) (n : Nat) : BusAnswer s (holeLoad p n s)
  | holeStore (p : HolePolicy) : BusAnswer s (holeStore p s)
  | row {i : Instr} (h : isPlainRow i = true) : BusAnswer s (exec i s)
  | sdhcLoad (off n : Nat) : BusAnswer s (sdhcLoad off n s)
  | sdhcStore (off n : Nat) (v : DWord) : BusAnswer s (sdhcStore off n v s)
  | otherLoad (id off n : Nat) : BusAnswer s (otherLoad id off n s)
  | otherStore (id off n : Nat) (v : DWord) : BusAnswer s (otherStore id off n v s)

theorem plic_busAnswer (off n : Nat) (v : DWord) (s : State) :
    BusAnswer s (plicLoad off n s) ∧ BusAnswer s (plicStore off n v s) := by
  by_cases hshape : n = 4 ∧ off % 4 = 0
  · obtain ⟨rfl, h4⟩ := hshape
    rcases plicSlot_hole_or_at h4 with hhole | ⟨hfits, -⟩
    · obtain ⟨hload, hstore⟩ := plic_at_hole h4 hhole v s
      rw [hload, hstore]
      exact ⟨.holeLoad _ 4, .holeStore _⟩
    · obtain ⟨⟨i, hload⟩, j, hstore⟩ := plicRows_of_fits hfits (v.setWidth 32)
      rw [plicLoad_eq_exec_row h4 hload, plicStore_eq_exec_row h4 hstore]
      exact ⟨.row (plicLoadRow_isPlainRow hload), .row (plicStoreRow_isPlainRow hstore)⟩
  · obtain ⟨hload, hstore⟩ := plic_refuses_shape hshape v s
    rw [hload, hstore]
    exact ⟨.refused _, .refused _⟩

theorem clint_busAnswer (off n : Nat) (v : DWord) (s : State) :
    BusAnswer s (clintLoad off n s) ∧ BusAnswer s (clintStore off n v s) := by
  rcases clintSlot_hole_or_refuse_or_at s.cfg.numHarts off n with hhole | hrefuse | ⟨hfits, -⟩
  · obtain ⟨hload, hstore⟩ := clint_at_hole hhole v
    rw [hload, hstore]
    exact ⟨.holeLoad _ n, .holeStore _⟩
  · obtain ⟨hload, hstore⟩ := clint_refuses_slot hrefuse v
    rw [hload, hstore]
    exact ⟨.refused _, .refused _⟩
  · obtain ⟨⟨i, hload⟩, j, hstore⟩ := clintRows_of_fits hfits v
    rw [clintLoad_eq_exec_row hload, clintStore_eq_exec_row hstore]
    exact ⟨.row (clintLoadRow_isPlainRow hload), .row (clintStoreRow_isPlainRow hstore)⟩

theorem uart_busAnswer (off n : Nat) (v : DWord) (s : State) :
    BusAnswer s (uartLoad off n s) ∧ BusAnswer s (uartStore off n v s) := by
  by_cases hn : n = 1
  · subst hn
    cases hindex : uartIndex s.cfg.uartRegShift off with
    | none =>
      obtain ⟨hload, hstore⟩ := uart_at_hole hindex v
      rw [hload, hstore]
      exact ⟨.holeLoad _ 1, .holeStore _⟩
    | some k =>
      obtain ⟨hk, -⟩ := uartIndex_eq_some hindex
      obtain ⟨lreg, i, hlreg, hload⟩ := uartLoadReg_row hk s.uart.dlab
      obtain ⟨sreg, j, hsreg, hstore⟩ := uartStoreReg_row hk s.uart.dlab (v.setWidth 8)
      rw [uartLoad_eq_exec_row hindex (Option.bind_eq_some_iff.2 ⟨lreg, hlreg, hload⟩),
        uartStore_eq_exec_row hindex (Option.bind_eq_some_iff.2 ⟨sreg, hsreg, hstore⟩)]
      exact ⟨.row (uartLoadRow_isPlainRow hload), .row (uartStoreRow_isPlainRow hstore)⟩
  · obtain ⟨hload, hstore⟩ := uart_refuses_width hn off v s
    rw [hload, hstore]
    exact ⟨.refused _, .refused _⟩

theorem device_busAnswer (d : Device) (off n : Nat) (v : DWord) (s : State) :
    BusAnswer s (deviceLoad d off n s) ∧ BusAnswer s (deviceStore d off n v s) := by
  cases d with
  | plic => exact plic_busAnswer off n v s
  | clint => exact clint_busAnswer off n v s
  | uart => exact uart_busAnswer off n v s
  | sdhc => exact ⟨.sdhcLoad off n, .sdhcStore off n v⟩
  | bus => exact ⟨.failed, .failed⟩
  | other id => exact ⟨.otherLoad id off n, .otherStore id off n v⟩

theorem busAccess_busAnswer (addr : DWord) (n : Nat) (v : DWord) (s : State) :
    BusAnswer s (exec (.busLoad addr n) s) ∧ BusAnswer s (exec (.busStore addr n v) s) := by
  by_cases hn : lenOk n = true
  · cases hroute : s.route addr n with
    | none =>
      rw [exec_busLoad_of_route_none hn hroute, exec_busStore_of_route_none hn hroute]
      exact ⟨.failed, .failed⟩
    | some p =>
      rw [exec_busLoad_of_route hn hroute, exec_busStore_of_route hn hroute]
      exact device_busAnswer p.1 p.2 n v s
  · rw [exec_busLoad_of_badLength hn, exec_busStore_of_badLength hn]
    exact ⟨.refused _, .refused _⟩

/-! ### Transactions that end without a fault, and fail without an effect (60_exceptions.md R370, R375) -/

/-- The result is no fault, and if it answers `Fail(UnmappedAccess)`, then nothing but the draw counter has moved. -/
def FailsCleanly (s : State) : Result → Prop
  | .next t => t.resp = .failed → Unchanged [.draws] s t
  | .fault _ => False
  | .refused _ => True

section FailsCleanly

variable {s : State}

theorem FailsCleanly.ne_fault {r : Result} (h : FailsCleanly s r) (f : Fault) : r ≠ .fault f := by
  rintro rfl
  exact h

theorem next_failsCleanly {t : State} (h : t.resp ≠ .failed) : FailsCleanly s (.next t) := fun hfail => absurd hfail h

/-- A transaction that completes has not failed, whatever it did on the way. -/
theorem okLoad_failsCleanly (n : Nat) (v : DWord) (u : State) : FailsCleanly s (okLoad n v u) := next_failsCleanly (by simp)

theorem okStore_failsCleanly (u : State) : FailsCleanly s (okStore u) := next_failsCleanly (by simp)

theorem refused_failsCleanly (r : Refusal) : FailsCleanly s (.refused r) := trivial

/-- The failure is answered from the state the transaction began with. -/
theorem failUnmapped_failsCleanly : FailsCleanly s (failUnmapped s) := fun _ =>
  (Answered.respond .failed s).2.2.mono (List.nil_subset _)

/-- An opaque device's failure is its free value, so one is drawn (assumption log 8). -/
theorem failUnmapped_drawn_failsCleanly : FailsCleanly s (failUnmapped s.drawn) := fun _ => (Answered.drawn .failed s).2.2

theorem holeLoad_failsCleanly (p : HolePolicy) (n : Nat) : FailsCleanly s (holeLoad p n s) := by
  cases p
  · exact okLoad_failsCleanly n _ s
  · exact failUnmapped_failsCleanly

theorem holeStore_failsCleanly (p : HolePolicy) : FailsCleanly s (holeStore p s) := by
  cases p
  · exact okStore_failsCleanly s
  · exact failUnmapped_failsCleanly

theorem FailsCleanly.ite {p : Prop} [Decidable p] {r r' : Result} (h : FailsCleanly s r) (h' : FailsCleanly s r') :
    FailsCleanly s (if p then r else r') := by
  split
  · exact h
  · exact h'

/-- The range check comes before any effect (60_exceptions.md R379). -/
theorem FailsCleanly.inRange {size off n : Nat} {r : Result} (h : FailsCleanly s r) : FailsCleanly s (inRange size off n s r) :=
  .ite h failUnmapped_failsCleanly

/-- So do the SDHC's mount gate and its hole policy (60_exceptions.md R379). -/
theorem FailsCleanly.sdhcGate {off n : Nat} {r : Result} (h : FailsCleanly s r) : FailsCleanly s (sdhcGate off n s r) :=
  .inRange (.ite failUnmapped_failsCleanly (.ite (refused_failsCleanly _) (.ite failUnmapped_failsCleanly h)))

end FailsCleanly

theorem rbrLoad_failsCleanly (s : State) : FailsCleanly s (rbrLoad s) := by
  unfold rbrLoad
  split
  · exact okLoad_failsCleanly 1 _ _
  · exact okLoad_failsCleanly 1 _ _

/-- Past the gate an SDHC access completes or is refused. -/
theorem sdhcLoad_failsCleanly (off n : Nat) (s : State) : FailsCleanly s (sdhcLoad off n s) :=
  .sdhcGate (.ite (.ite (okLoad_failsCleanly 4 _ _) (.ite (refused_failsCleanly _) (okLoad_failsCleanly 4 _ _)))
    (okLoad_failsCleanly n _ s))

theorem sdhcStore_failsCleanly (off n : Nat) (v : DWord) (s : State) : FailsCleanly s (sdhcStore off n v s) := by
  refine .sdhcGate (.ite (.ite (okStore_failsCleanly _) (.ite (refused_failsCleanly _) (okStore_failsCleanly _))) ?_)
  split
  · exact refused_failsCleanly _
  · exact okStore_failsCleanly _

theorem otherLoad_failsCleanly (id off n : Nat) (s : State) : FailsCleanly s (otherLoad id off n s) := by
  unfold otherLoad
  split
  · exact okLoad_failsCleanly n _ _
  · exact failUnmapped_drawn_failsCleanly
  · exact refused_failsCleanly _

theorem otherStore_failsCleanly (id off n : Nat) (v : DWord) (s : State) : FailsCleanly s (otherStore id off n v s) := by
  unfold otherStore
  split
  · exact okStore_failsCleanly _
  · exact failUnmapped_drawn_failsCleanly
  · exact refused_failsCleanly _

/-- A row fails only at its range check, its gate or a hole, each before its effect. -/
theorem plainRow_failsCleanly {i : Instr} (hi : isPlainRow i = true) (s : State) : FailsCleanly s (exec i s) := by
  cases i with
  | busLoad addr n | busStore addr n v | busAddDevice on base d => cases hi
  | busFindDevice addr => exact next_failsCleanly (by simp)
  | plicPriorityLd k =>
    exact .inRange (.ite (okLoad_failsCleanly 4 _ _) (.ite (okLoad_failsCleanly 4 _ _) (holeLoad_failsCleanly _ 4)))
  | plicPrioritySt k v =>
    exact .inRange (.ite (okStore_failsCleanly _) (.ite (okStore_failsCleanly _) (holeStore_failsCleanly _)))
  | plicPendingLd w | plicEnableLd c w | plicThresholdLd c | plicClaimLd c =>
    exact .inRange (.ite (holeLoad_failsCleanly _ 4) (okLoad_failsCleanly 4 _ _))
  | plicPendingSt w v | plicEnableSt c w v | plicThresholdSt c v | plicCompleteSt c v =>
    exact .inRange (.ite (holeStore_failsCleanly _) (okStore_failsCleanly _))
  | plicRaiseIrq k level => exact .ite (refused_failsCleanly _) (okStore_failsCleanly _)
  | plicUpdate | clintIncrement d | uartPoll | uartHostInput bytes => exact okStore_failsCleanly _
  | plicIntCheck c => exact .ite (refused_failsCleanly _) (next_failsCleanly (by simp))
  | clintMsipLd h | clintMtimecmpLd64 h | clintMtimecmpLdLo h | clintMtimecmpLdHi h =>
    exact .inRange (.ite (okLoad_failsCleanly _ _ _) (holeLoad_failsCleanly _ _))
  | clintMsipSt h v | clintMtimecmpSt64 h v | clintMtimecmpStLo h v | clintMtimecmpStHi h v =>
    exact .inRange (.ite (okStore_failsCleanly _) (holeStore_failsCleanly _))
  | clintMtimeLd64 | clintMtimeLdLo | clintMtimeLdHi => exact .inRange (okLoad_failsCleanly _ _ _)
  | clintMtimeSt64 v | clintMtimeStLo v | clintMtimeStHi v => exact .inRange (okStore_failsCleanly _)
  | sdhcSysaddrLd j n | sdhcBlksizeLd j n | sdhcBlkcntLd j n | sdhcArgLd j n | sdhcXfermodeLd j n | sdhcCmdLd j n
  | sdhcRespLd j n | sdhcPrsntLd j n | sdhcHostctlLd j n | sdhcPwrctlLd j n | sdhcClkctlLd j n | sdhcToctlLd j n
  | sdhcSwrstLd j n | sdhcNistsLd j n | sdhcEistsLd j n | sdhcNistenLd j n | sdhcEistenLd j n | sdhcNisigenLd j n
  | sdhcEisigenLd j n | sdhcCapsLd j n | sdhcMaxcurLd j n | sdhcVersionLd j n | sdhcBufdataLd =>
    exact sdhcLoad_failsCleanly _ _ s
  | sdhcSysaddrSt j n v | sdhcBlksizeSt j n v | sdhcBlkcntSt j n v | sdhcArgSt j n v | sdhcXfermodeSt j n v | sdhcCmdSt j n v
  | sdhcRespSt j n v | sdhcPrsntSt j n v | sdhcHostctlSt j n v | sdhcPwrctlSt j n v | sdhcClkctlSt j n v | sdhcToctlSt j n v
  | sdhcSwrstSt j n v | sdhcNistsSt j n v | sdhcEistsSt j n v | sdhcNistenSt j n v | sdhcEistenSt j n v | sdhcNisigenSt j n v
  | sdhcEisigenSt j n v | sdhcCapsSt j n v | sdhcMaxcurSt j n v | sdhcVersionSt j n v | sdhcBufdataSt v =>
    exact sdhcStore_failsCleanly _ _ _ s
  | uartRbrLd | uartDllLd => exact .inRange (.ite (okLoad_failsCleanly 1 _ _) (rbrLoad_failsCleanly s))
  | uartIerLd | uartDlmLd | uartLsrLd | uartPsdLd =>
    exact .inRange (.ite (okLoad_failsCleanly 1 _ _) (okLoad_failsCleanly 1 _ _))
  | uartIirLd | uartLcrLd | uartMcrLd | uartMsrLd | uartScrLd => exact .inRange (okLoad_failsCleanly 1 _ _)
  | uartThrSt v | uartDllSt v | uartIerSt v | uartDlmSt v | uartLsrSt v | uartPsdSt v =>
    exact .inRange (.ite (okStore_failsCleanly _) (okStore_failsCleanly _))
  | uartFcrSt v | uartLcrSt v | uartMcrSt v | uartMsrSt v | uartScrSt v => exact .inRange (okStore_failsCleanly _)

theorem BusAnswer.failsCleanly {s : State} {r : Result} (h : BusAnswer s r) : FailsCleanly s r := by
  cases h with
  | refused r => exact refused_failsCleanly r
  | failed => exact failUnmapped_failsCleanly
  | holeLoad p n => exact holeLoad_failsCleanly p n
  | holeStore p => exact holeStore_failsCleanly p
  | row hi => exact plainRow_failsCleanly hi s
  | sdhcLoad off n => exact sdhcLoad_failsCleanly off n s
  | sdhcStore off n v => exact sdhcStore_failsCleanly off n v s
  | otherLoad id off n => exact otherLoad_failsCleanly id off n s
  | otherStore id off n v => exact otherStore_failsCleanly id off n v s

/-- Every transaction but `add_device`. -/
theorem exec_failsCleanly {i : Instr} (hadd : ¬∃ on base d, i = .busAddDevice on base d) (s : State) :
    FailsCleanly s (exec i s) := by
  by_cases hi : isPlainRow i = true
  · exact plainRow_failsCleanly hi s
  · cases i with
    | busLoad addr n => exact (busAccess_busAnswer addr n 0#64 s).1.failsCleanly
    | busStore addr n v => exact (busAccess_busAnswer addr n v s).2.failsCleanly
    | busAddDevice on base d => exact absurd ⟨on, base, d, rfl⟩ hadd
    | _ => exact absurd rfl hi

/-! ### O14: a failed transaction changes nothing (60_exceptions.md R370) -/

/-- `add_device` never fails as unmapped: it is refused, stops the machine or answers `Ok` (40_bus.md R161). -/
theorem execBusAddDevice_resp {on : Nat} {base : DWord} {d : Device} {s t : State}
    (h : execBusAddDevice on base d s = .next t) : t.resp = .ok := by
  unfold execBusAddDevice at h
  split_ifs at h
  exact Host.Outcome.next.inj h ▸ rfl

/-- Settles O14: a transaction other than `add_device` fails before its effect, and `add_device` does not fail. -/
theorem failedTransactionsChangeNothing : Obligations.FailedTransactionsChangeNothing := by
  intro i s t h hfail
  by_cases hadd : ∃ on base d, i = .busAddDevice on base d
  · obtain ⟨on, base, d, rfl⟩ := hadd
    have hok : t.resp = .ok := execBusAddDevice_resp h
    rw [hok] at hfail
    cases hfail
  · have hclean := exec_failsCleanly hadd s
    rw [h] at hclean
    exact hclean hfail

/-! ### O15: where an error stops the machine (60_exceptions.md R375) -/

theorem State.construct_error_of_not_valid {l : Launch} (h : ¬l.cfg.valid = true) : ∃ f, State.construct l = .error f := by
  cases hbuild : State.construct l with
  | error f => exact ⟨f, rfl⟩
  | ok s =>
    obtain ⟨⟨hvalid, -⟩, -⟩ := (State.construct_eq_ok_iff l s).1 hbuild
    exact absurd hvalid h

theorem exec_fault {i : Instr} {s : State} {f : Fault} (h : exec i s = .fault f) :
    s.started = false ∧ ∃ on base d, i = .busAddDevice on base d := by
  by_cases hadd : ∃ on base d, i = .busAddDevice on base d
  · refine ⟨Bool.eq_false_iff.2 fun hstarted => ?_, hadd⟩
    obtain ⟨on, base, d, rfl⟩ := hadd
    rw [exec_busAddDevice_of_started hstarted] at h
    cases h
  · have hclean := exec_failsCleanly hadd s
    exact absurd h (hclean.ne_fault f)

/-- A record that is no transaction is refused or fails as unmapped (20_memory.md R113, R114). -/
theorem rejectRecord_failsCleanly (e : DecodeError) (s : State) : FailsCleanly s (rejectRecord e s) := by
  cases e with
  | atomic addr n | fetch addr n =>
    refine .ite ?_ (refused_failsCleanly _)
    split
    · exact failUnmapped_failsCleanly
    all_goals exact refused_failsCleanly _
  | truncated | badFormat | badSelector | reservedField | noRow => exact refused_failsCleanly _

theorem step_ne_fault {s : State} (hstarted : s.started = true) (f : Fault) : step s ≠ .fault f := by
  intro h
  cases hq : s.requests with
  | nil =>
    rw [step_of_no_request hq] at h
    cases h
  | cons record rest =>
    cases hdec : decode record with
    | ok i =>
      rw [step_of_decode_ok hdec hq] at h
      have hnot : s.started = false := (exec_fault h).1
      rw [hstarted] at hnot
      cases hnot
    | error e =>
      rw [step_of_decode_error hdec hq] at h
      exact (rejectRecord_failsCleanly e _).ne_fault f h

/-- Settles O15: construction tests the launch's ranges, and every transaction but `add_device` ends without a fault. -/
theorem faultsOnlyAtConstruction : Obligations.FaultsOnlyAtConstruction := by
  refine ⟨fun l => ?_, fun l hempty => ?_, fun l a p q hsub hp hp' hq hq' => ?_, fun i s f => exec_fault,
    fun s f hstarted => step_ne_fault hstarted f⟩
  · simp only [State.construct_eq_ok_iff, exists_and_left, exists_eq, and_true]
  · refine State.construct_error_of_not_valid fun hvalid => ?_
    obtain ⟨-, hfit, -⟩ := Config.valid_iff.1 hvalid
    obtain ⟨hplic, hclint, huart, hsdhc⟩ := Config.sizes_ne_zero_of_rangesFit hfit
    omega
  · refine State.construct_error_of_not_valid fun hvalid => ?_
    obtain ⟨-, -, hapart⟩ := Config.valid_iff.1 hvalid
    have hdisjoint := List.pairwise_iff_forall_sublist.1 (Config.rangesApart_iff_pairwise.1 hapart) hsub
    exact not_rangesDisjoint_of_shared ⟨hp, hp'⟩ ⟨hq, hq'⟩ hdisjoint

end Sys2Proof.Machine
end

section
/-! PROOFS. Construction (70_reset_and_hazards.md R400 to R402): the fields of every machine that is built (O13), and the invariants it
meets (O12). -/

namespace Sys2Proof.Machine

/-! ### Arrays of one value -/

section ConstantCells

variable {β : Type} (d v : β)

theorem cellGet_map_const (ks : List Nat) (k : Nat) :
    cellGet d (ks.map fun j => (j, v)) k = if k ∈ ks then v else d := by
  induction ks with
  | nil => rfl
  | cons j ks ih =>
    rw [List.map_cons, cellGet_cons, ih]
    by_cases hj : j = k
    · simp [hj]
    · simp [hj, Ne.symm hj]

variable [DecidableEq β]

theorem cellsWf_map_const {ks : List Nat} (hv : v ≠ d) (hks : ks.Pairwise (· < ·)) :
    cellsWf d (ks.map fun j => (j, v)) = true := by
  induction hks with
  | nil => rfl
  | cons hlt _ ih => exact (cellsWf_cons d _ _).2 ⟨hv, by simpa using hlt, ih⟩

end ConstantCells

/-! ### The map that machine setup builds (10_state.md R22, 40_bus.md R161) -/

/-- The arguments of the four `add_device` calls of machine setup. -/
def launchEntries (c : Config) : List Mapping :=
  [⟨c.plicBase, .plic, c.plicSize⟩, ⟨c.clintBase, .clint, c.clintSize⟩, ⟨c.uartBase, .uart, c.uartSize⟩,
    ⟨c.sdhcBase, .sdhc, c.sdhcSize⟩]

theorem launchMap_eq_foldr (c : Config) : launchMap c = (launchEntries c).foldr insertMapping [] := rfl

theorem mem_foldr_insertMapping {x : Mapping} {ms : List Mapping} : x ∈ ms.foldr insertMapping [] ↔ x ∈ ms := by
  induction ms with
  | nil => rfl
  | cons m ms ih => rw [List.foldr_cons, mem_insertMapping, ih, List.mem_cons]

theorem rangesMeet_eq_not_rangesDisjoint (b k b' k' : Nat) : rangesMeet b k b' k' = !rangesDisjoint b k b' k' := by
  simp only [rangesMeet, rangesDisjoint, ← decide_not, decide_eq_decide]
  omega

/-- Entries that fit and share no byte make an ordered map, in whatever order they are added. -/
theorem mapOk_foldr_insertMapping {ms : List Mapping} (hfit : ∀ m ∈ ms, rangeOk m.base.toNat m.size = true)
    (hapart : ms.Pairwise fun m m' => rangesDisjoint m.base.toNat m.size m'.base.toNat m'.size = true) :
    MapOk (ms.foldr insertMapping []) := by
  induction hapart with
  | nil => exact ⟨.nil, by simp⟩
  | cons hm _ ih =>
    obtain ⟨hfirst, hrest⟩ := List.forall_mem_cons.1 hfit
    obtain ⟨hsize, hend⟩ := of_decide_eq_true hfirst
    refine (ih hrest).insert hsize hend fun e he => ?_
    rw [rangesMeet_eq_not_rangesDisjoint, hm e (mem_foldr_insertMapping.1 he)]
    rfl

theorem mapOk_launchMap {c : Config} (h : c.valid = true) : MapOk (launchMap c) := by
  obtain ⟨-, hfit, hapart⟩ := Config.valid_iff.1 h
  rw [launchMap_eq_foldr]
  have hpairs : ((launchEntries c).map fun m => (m.base.toNat, m.size)).Pairwise _ := Config.rangesApart_iff_pairwise.1 hapart
  refine mapOk_foldr_insertMapping ?_ (List.pairwise_map.1 hpairs)
  simpa [Config.rangesFit, launchEntries, and_assoc] using hfit

theorem launchMap_ne_nil (c : Config) : launchMap c ≠ [] := by
  rw [launchMap_eq_foldr]
  exact List.ne_nil_of_mem (mem_foldr_insertMapping.2 List.mem_cons_self)

/-! ### O13: what the construction state reads as -/

section Initial

variable (l : Launch)

@[simp] theorem State.initial_prio (k : Nat) : (State.initial l).plic.prio k = 0#32 := rfl
@[simp] theorem State.initial_thresh (c : Nat) : (State.initial l).plic.thresh c = 0#32 := rfl
@[simp] theorem State.initial_lineOf (c : Nat) : (State.initial l).plic.lineOf c = false := rfl
@[simp] theorem State.initial_cmp (cfg : Config) (h : Nat) : (State.initial l).clint.cmp cfg h = cfg.clintMtimecmpInit := rfl
@[simp] theorem State.initial_mtime : (State.initial l).clint.mtime = 0#64 := rfl

theorem State.initial_sdhc : (State.initial l).sdhc = Sdhc.construct l.cfg (l.image.getD []) l.buf := rfl

theorem State.initial_uart : (State.initial l).uart =
    { rxq := l.rxq.getD [], txlog := [], ier := 0#8, fcr := 0#8, lcr := 0#8, mcr := 0#8, scr := 0#8, dll := 0#8, dlm := 0#8,
      psd := 0#8, line := false } := rfl

theorem State.initial_counters : (State.initial l).counters = ⟨0, 0, 0⟩ := rfl

@[simp] theorem State.initial_pending (k : Nat) : (State.initial l).plic.pending.getLsbD k = false := BitVec.getLsbD_zero

@[simp] theorem State.initial_enabled (c k : Nat) : ((State.initial l).plic.enabledOf c).getLsbD k = false :=
  BitVec.getLsbD_zero

@[simp] theorem State.initial_claimed (c k : Nat) : ((State.initial l).plic.claimedOf c).getLsbD k = false :=
  BitVec.getLsbD_zero

theorem State.initial_mtipOut : (State.initial l).clint.mtipOut =
    if l.cfg.clintMtimecmpInit = 0#64 then (List.range l.cfg.numHarts).map fun h => (h, true) else [] := rfl

/-- `MTIP_out[h]` is `0 >= CLINT_MTIMECMP_INIT` (10_state.md R33). -/
theorem State.initial_mtipOutOf {h : Nat} (hh : h < l.cfg.numHarts) :
    (State.initial l).clint.mtipOutOf h = decide (l.cfg.clintMtimecmpInit = 0#64) := by
  rw [Clint.mtipOutOf, State.initial_mtipOut]
  split
  case isTrue hinit => rw [cellGet_map_const, if_pos (List.mem_range.2 hh), decide_eq_true hinit]
  case isFalse hinit => rw [cellGet_nil, decide_eq_false hinit]

theorem State.initial_mtipOut_wf : cellsWf false (State.initial l).clint.mtipOut = true := by
  rw [State.initial_mtipOut]
  split
  · exact cellsWf_map_const _ _ (by decide) List.pairwise_lt_range
  · rfl

/-- The root Bus has the launch's map, and every other Bus none. -/
theorem State.initial_devmap (b : Nat) : (State.initial l).devmap b = if 0 = b then launchMap l.cfg else [] := rfl

theorem State.mem_initial_devmap {m : Mapping} : m ∈ (State.initial l).devmap 0 ↔ m ∈ launchEntries l.cfg := by
  rw [State.initial_devmap, if_pos rfl, launchMap_eq_foldr, mem_foldr_insertMapping]

end Initial

/-- Settles O13: construction answers the construction state and nothing else, so each field is read off it. -/
theorem constructionState : Obligations.ConstructionState := by
  intro l s hbuild
  obtain ⟨⟨-, -, hfifo⟩, rfl⟩ := (State.construct_eq_ok_iff l s).1 hbuild
  obtain ⟨rxq, hrxq⟩ := Option.ne_none_iff_exists'.1 hfifo
  refine ⟨rfl, fun k => ⟨rfl, State.initial_pending l k⟩, fun c k => ⟨State.initial_enabled l c k, State.initial_claimed l c k⟩,
    fun c => ⟨rfl, rfl⟩, rfl, rfl, fun h => ⟨rfl, rfl, rfl⟩, fun h => State.initial_mtipOutOf l, ?_⟩
  simp only [State.initial_sdhc, Sdhc.construct, State.initial_uart, State.initial_counters, true_and, and_true]
  refine ⟨fun image himage => ?_, ?_, fun m => ?_⟩
  · rw [himage]
    rfl
  · rw [hrxq]
    rfl
  · simp [State.mem_initial_devmap, launchEntries]

/-! ### O12: the invariants at construction -/

section Invariants

variable (l : Launch)

theorem State.initial_exclusive : (State.initial l).plic.Exclusive l.cfg := by
  intro k c c' _ _ hclaimed
  rw [State.initial_claimed] at hclaimed
  cases hclaimed

/-- Nothing is pending, so nothing is eligible and every line is low. -/
theorem State.initial_linesCurrent : (State.initial l).plic.LinesCurrent l.cfg := by
  intro c _
  simp [Plic.Eligible]

/-- Zeros lie in every bound, and no bit is set for any source. -/
theorem State.initial_inBounds : (State.initial l).plic.InBounds l.cfg := by
  constructor <;> simp

/-- At `mtime` 0 a timer is due exactly if it compares with 0 (42_clint.md R237). -/
theorem State.initial_outputsCurrent : (State.initial l).clint.OutputsCurrent l.cfg := by
  refine fun h hh => ⟨rfl, ?_⟩
  rw [State.initial_mtipOutOf l hh, decide_eq_decide, State.initial_cmp, State.initial_mtime]
  bv_omega

/-- `reset_all()` of the constructed SDHC is that SDHC (43_sdhc.md R282), so what holds after the reset holds of it. -/
theorem State.initial_consistent : (State.initial l).sdhc.Consistent :=
  Sdhc.resetAll_consistent l.cfg (State.initial l).sdhc

theorem State.initial_lineCurrent : (State.initial l).sdhc.LineCurrent :=
  (Sdhc.resetAll_level l.cfg (State.initial l).sdhc).symm

theorem State.initial_sdhc_fixed : (State.initial l).sdhc.Fixed l.cfg where
  mounted := rfl
  capacity := rfl
  dma := BitVec.getLsbD_zero
  resp := ⟨rfl, rfl, rfl, rfl⟩
  prsnt := (by decide : 0x00090000#32 &&& ~~~0x00000F00#32 = 0x00090000#32)
  swrst := rfl
  nists := BitVec.zero_and
  eists := rfl
  caps := rfl
  maxcur := rfl
  version := rfl

theorem State.initial_uart_fixed : (State.initial l).uart.Fixed := ⟨BitVec.zero_and, BitVec.zero_and⟩

variable {l} (hl : l.Ok)
include hl

theorem State.initial_busOk : (State.initial l).BusOk := by
  intro b
  rw [State.initial_devmap]
  split
  · exact mapOk_launchMap hl.cfg
  · exact ⟨.nil, by simp⟩

theorem State.initial_canonical : (State.initial l).Canonical where
  priority := rfl
  enabled := rfl
  threshold := rfl
  claimed := rfl
  irqOut := rfl
  mtimecmp := rfl
  msip := rfl
  msipOut := rfl
  mtipOut := State.initial_mtipOut_wf l
  bus := (cellsWf_cons _ _ _).2 ⟨launchMap_ne_nil l.cfg, by simp, rfl⟩
  image := hl.image
  buf := hl.buf

end Invariants

/-- The launch of `State.reset` is acceptable. -/
theorem Launch.sample_ok : Launch.sample.Ok := by
  constructor <;> decide

/-- Settles O12: an acceptable launch builds the construction state, which meets every invariant; the sample launch builds
`State.reset`. -/
theorem constructionMeetsTheInvariants : Obligations.ConstructionMeetsTheInvariants :=
  ⟨fun l hl => ⟨State.initial l, State.construct_of_ok hl, State.initial_exclusive l, State.initial_linesCurrent l,
    State.initial_inBounds l, State.initial_outputsCurrent l, State.initial_consistent l, State.initial_sdhc_fixed l,
    State.initial_lineCurrent l, State.initial_uart_fixed l, State.initial_busOk hl, State.initial_canonical hl⟩,
    Launch.sample, Launch.sample_ok, State.construct_of_ok Launch.sample_ok⟩

end Sys2Proof.Machine
end
